-- ==== Sys2Proof/Word.lean ====
section
/-! DEFINITION. The two bit-vector types of the ChaCha20 core: the 32-bit state word (spec/00_scope.md R7
`WORD_BITS`) and the 8-bit byte of the command, response and keystream streams (spec/20_memory.md R56). -/

namespace Sys2Proof

/-- A 32-bit word of the cipher state: `WORD_BITS` = 32 (R7). All values are unsigned (R10). -/
abbrev Word := BitVec 32

/-- A byte of a packet, of a response or of the keystream; bit 7 is the most significant (R55). -/
abbrev Byte := BitVec 8

end Sys2Proof
end

