-- ==== Sys2Proof/Config.lean ====
section
/-! DEFINITION. The constants of the core: the parameters D0 fixes (spec/00_scope.md R7) and the ones D0
leaves open, at the value this spec takes for them (R8). No value of this spec is left free, so nothing
here is opaque. `NUM_CONTEXTS` = 1 is the one context that `Machine.State` holds; `ROUND_STRUCTURE` has
no definition, because no result depends on it (R8, R117). -/

namespace Sys2Proof.Config

/-- `KEY_BYTES`: the accepted key length (R7). -/
@[simp] def keyBytes : Nat := 32

/-- `NONCE_BYTES`: the classic nonce length (R7). -/
@[simp] def nonceBytes : Nat := 12

/-- `XNONCE_BYTES`: the extended nonce length (R7). -/
@[simp] def xnonceBytes : Nat := 24

/-- `HNONCE_BYTES`: the nonce bytes fed to HChaCha20 (R7). -/
@[simp] def hnonceBytes : Nat := 16

/-- `BLOCK_BYTES`: the bytes of one keystream block (R7). -/
@[simp] def blockBytes : Nat := 64

/-- `DOUBLE_ROUNDS`: double rounds per permutation (R7; spec/90_conflicts.md C1). -/
@[simp] def doubleRounds : Nat := 10

/-- `CTR_MAX`: the block counter's maximum representable value (R7). -/
@[simp] def ctrMax : Nat := 0xFFFFFFFF

/-- `P_DEFAULT_CTR`: the initial counter when the packet carries none (R8, R158; decision D9). -/
@[simp] def defaultCtr : Word := 0

/-- `P_DST_GE`: whether a destination longer than the input is accepted (R8, R188; decision D10). -/
@[simp] def dstGe : Bool := false

/-- `LEN_BITS`: the width of the length fields `ILEN` and `OLEN` (R8; decision D6). -/
@[simp] def lenBits : Nat := 64

end Sys2Proof.Config
end

