-- ==== Sys2Proof/Machine/Bytes.lean ====
section
/-! DEFINITION. The pseudocode primitives of spec/00_scope.md R11: arithmetic on words and bytes, and the
little-endian conversions between byte strings and words (spec/20_memory.md R52 to R54). -/

namespace Sys2Proof.Machine

/-- `add32` of R11: addition modulo 2^32; no carry or overflow is recorded (R12, R34). -/
def add32 (a b : Word) : Word := a + b

/-- `xor32` of R11. -/
def xor32 (a b : Word) : Word := a ^^^ b

/-- `xor8` of R11. -/
def xor8 (a b : Byte) : Byte := a ^^^ b

/-- `rotl32` of R11: rotate left by `n`, `0 < n < 32`. -/
def rotl32 (v : Word) (n : Nat) : Word := (v <<< n) ||| (v >>> (32 - n))

/-- Byte `i` of a byte string. Every use is behind a length check, so the 0 past the end is never a
result (R83, R104). -/
def byteAt (p : List Byte) (i : Nat) : Byte := p.getD i 0

/-- `A[i .. i+n-1]` of R10, as a byte string. -/
def slice (p : List Byte) (i n : Nat) : List Byte := (p.drop i).take n

/-- `le32` of R11: the word `b0 + 2^8*b1 + 2^16*b2 + 2^24*b3`, `b0` first in the byte string. -/
def le32 (b0 b1 b2 b3 : Byte) : Word :=
  BitVec.ofNat 32 (b0.toNat + 2 ^ 8 * b1.toNat + 2 ^ 16 * b2.toNat + 2 ^ 24 * b3.toNat)

/-- `le32s` of R11: the `n` words of a byte string of length `4n`. -/
def le32s (n : Nat) (p : List Byte) : Vector Word n :=
  Vector.ofFn fun i =>
    le32 (byteAt p (4 * i)) (byteAt p (4 * i + 1)) (byteAt p (4 * i + 2)) (byteAt p (4 * i + 3))

/-- Byte `k` of a word, `v[8k+7 : 8k]`, `k` = 0..3 (R11 `ser32`, R54). -/
def wordByte (v : Word) (k : Nat) : Byte := v.extractLsb' (8 * k) 8

/-- `ser32` of R11: the four bytes of a word, least significant first. -/
def ser32 (v : Word) : List Byte := [wordByte v 0, wordByte v 1, wordByte v 2, wordByte v 3]

/-- `ser32s` of R11: the concatenation of `ser32` of the words. -/
def ser32s {n : Nat} (v : Vector Word n) : List Byte := v.toList.flatMap ser32

/-- `sum B[i] * 2^(8i)` of R11, for a byte string of any length; `le64` is its use on 8 bytes. -/
def leNat : List Byte → Nat
  | [] => 0
  | b :: rest => b.toNat + 256 * leNat rest

/-- `le64` of R11: the unsigned number of 8 bytes. -/
def le64 (p : List Byte) : Nat := leNat (p.take 8)

/-- The `n` bytes of a number, least significant first: the inverse of `leNat` below `256^n` (R75). -/
def serNat : Nat → Nat → List Byte
  | 0, _ => []
  | n + 1, v => BitVec.ofNat 8 v :: serNat n (v / 256)

end Sys2Proof.Machine
end

