-- ==== Sys2Proof/Syntax.lean ====
section
/-! DEFINITION. The five host commands of the core (spec/30_encoding.md R70), one constructor for each
row of spec/opcode_table.json. The micro-operations (R71) have no encoding and are no constructors: they
are the operations of `Machine/Permutation.lean` and `Machine/Keystream.lean`. -/

namespace Sys2Proof

/-- A decoded command packet with the operands R73 to R76 and R88 give it.
`KLEN`, `NLEN` and `ILEN` are the lengths of the byte strings held here (R89).
The counter operand keeps whether the packet carried one (`CV`, R72): see assumption log entry 1. -/
inductive Instr where
  /-- `INIT`, format K (R73, R77): initial counter if `CV` = 1, key bytes, nonce bytes. -/
  | init (ctr : Option Word) (key nonce : List Byte)
  /-- `XORKS`, format X (R75, R78): `OLEN`, the size of the host's destination, and the input bytes. -/
  | xorks (olen : Nat) (data : List Byte)
  /-- `HCHACHA`, format H (R74, R79): key bytes and nonce bytes. -/
  | hchacha (key nonce : List Byte)
  /-- `BLOCK`, format K (R73, R91): counter if `CV` = 1, key bytes, nonce bytes. -/
  | block (ctr : Option Word) (key nonce : List Byte)
  /-- `ZEROIZE`, format Z (R76, R80): no operand. -/
  | zeroize
  deriving DecidableEq, Repr

end Sys2Proof
end

