-- ==== Sys2Proof/WellFormed.lean ====
section
/-! DEFINITION. What the packet format can carry. `Instr.wellFormed` says which decoded commands have a
packet (the widths of `KLEN`, `NLEN`, `ILEN` and `OLEN`, spec/30_encoding.md R72 and R75).
`packetWellFormed` is R81 transcribed: the six conditions a packet meets exactly when it is well formed. -/

namespace Sys2Proof

/-- The length fields of a command fit their bits: `KLEN` and `NLEN` have 8 bits (R72), `ILEN` and `OLEN`
have `LEN_BITS` bits (R75). A wrong size that fits is well formed; the command answers its error (R83). -/
def Instr.wellFormed : Instr → Bool
  | .init _ key nonce => key.length < 2 ^ 8 && nonce.length < 2 ^ 8
  | .xorks olen data => olen < 2 ^ Config.lenBits && data.length < 2 ^ Config.lenBits
  | .hchacha key nonce => key.length < 2 ^ 8 && nonce.length < 2 ^ 8
  | .block _ key nonce => key.length < 2 ^ 8 && nonce.length < 2 ^ 8
  | .zeroize => true

open Machine in
/-- R81, its six conditions in its order, read off the packet's bytes with the header fields of R72. -/
def packetWellFormed (p : List Byte) : Bool :=
  let opc := byteAt p 0
  let cv := (byteAt p 1).getLsbD 0
  let reserved := (byteAt p 1).extractLsb' 1 7
  let klen := (byteAt p 2).toNat
  let nlen := (byteAt p 3).toNat
  let formatK := opc == 0x01 || opc == 0x04
  -- 1: at least a header
  decide (4 ≤ p.length)
  -- 2: a defined opcode
  && (opc == 0x01 || opc == 0x02 || opc == 0x03 || opc == 0x04 || opc == 0x05)
  -- 3: reserved header bits are 0
  && reserved == 0
  -- 4: fields the format does not use are 0
  && (opc != 0x03 || !cv)
  && (!(opc == 0x02 || opc == 0x05) || (!cv && klen == 0 && nlen == 0))
  -- 5: the packet has its format's total length
  && (!formatK || p.length == 8 + klen + nlen)
  && (opc != 0x03 || p.length == 4 + klen + nlen)
  && (opc != 0x02 || (decide (20 ≤ p.length) && p.length == 20 + le64 (slice p 4 8)))
  && (opc != 0x05 || p.length == 4)
  -- 6: a format K packet without a counter has a zero counter field
  && (!(formatK && !cv) || slice p 4 4 == [0, 0, 0, 0])

end Sys2Proof
end

