-- ==== Sys2Proof/Decode.lean ====
section
/-! DEFINITION. The decoder of spec/30_encoding.md R88, total on any byte string and rejecting by name,
and the encoder written from the formats of R72 to R76. -/

namespace Sys2Proof

open Machine

/-- Why a packet is malformed (R81). Every one of them is the same `IllegalCommand` to the host (R82). -/
inductive Illegal where
  /-- fewer than 4 bytes (R81 condition 1) -/
  | shorterThanHeader
  /-- a set bit of `CW[15:9]` (R81 condition 3) -/
  | reservedHeaderBits
  /-- `OPC` = 0x00 or 0x06 .. 0xFF (R81 condition 2, R82) -/
  | reservedOpcode
  /-- `CV`, `KLEN` or `NLEN` not 0 in a format that does not use it (R81 condition 4) -/
  | unusedFieldNotZero
  /-- not the format's total length (R81 condition 5) -/
  | wrongLength
  /-- `CTRF` not 0 with `CV` = 0 (R81 condition 6) -/
  | counterFieldNotZero
  deriving DecidableEq, Repr

/-- The header word `CW = le32(p[0..3])` (R72). -/
def headerWord (p : List Byte) : Word := le32 (byteAt p 0) (byteAt p 1) (byteAt p 2) (byteAt p 3)

/-- `OPC = CW[7:0]` (R72). -/
def headerOpc (cw : Word) : Byte := cw.extractLsb' 0 8

/-- `CV = CW[8]` (R72). -/
def headerCv (cw : Word) : Bool := cw.getLsbD 8

/-- The reserved bits `CW[15:9]` (R72). -/
def headerReserved (cw : Word) : BitVec 7 := cw.extractLsb' 9 7

/-- `KLEN = CW[23:16]` (R72). -/
def headerKlen (cw : Word) : Nat := (cw.extractLsb' 16 8).toNat

/-- `NLEN = CW[31:24]` (R72). -/
def headerNlen (cw : Word) : Nat := (cw.extractLsb' 24 8).toNat

/-- `CTRF = le32(p[4..7])` of format K (R73). -/
def counterField (p : List Byte) : Word := le32 (byteAt p 4) (byteAt p 5) (byteAt p 6) (byteAt p 7)

/-- A format K packet (R73): the counter if `CV` = 1, the key and the nonce. -/
def decodeFormatK (p : List Byte) : Except Illegal (Option Word × List Byte × List Byte) :=
  let cw := headerWord p
  if p.length ≠ 8 + headerKlen cw + headerNlen cw then .error .wrongLength
  else if headerCv cw = false ∧ slice p 4 4 ≠ [0, 0, 0, 0] then .error .counterFieldNotZero
  else .ok (if headerCv cw then some (counterField p) else none,
    slice p 8 (headerKlen cw), slice p (8 + headerKlen cw) (headerNlen cw))

/-- `INIT` (R77). -/
def decodeInit (p : List Byte) : Except Illegal Instr :=
  match decodeFormatK p with
  | .ok (ctr, key, nonce) => .ok (.init ctr key nonce)
  | .error e => .error e

/-- `BLOCK` (R91). -/
def decodeBlock (p : List Byte) : Except Illegal Instr :=
  match decodeFormatK p with
  | .ok (ctr, key, nonce) => .ok (.block ctr key nonce)
  | .error e => .error e

/-- `HCHACHA`, format H (R74, R79). -/
def decodeHchacha (p : List Byte) : Except Illegal Instr :=
  let cw := headerWord p
  if headerCv cw then .error .unusedFieldNotZero
  else if p.length ≠ 4 + headerKlen cw + headerNlen cw then .error .wrongLength
  else .ok (.hchacha (slice p 4 (headerKlen cw)) (slice p (4 + headerKlen cw) (headerNlen cw)))

/-- `XORKS`, format X (R75, R78). -/
def decodeXorks (p : List Byte) : Except Illegal Instr :=
  let cw := headerWord p
  if headerCv cw = true ∨ headerKlen cw ≠ 0 ∨ headerNlen cw ≠ 0 then .error .unusedFieldNotZero
  else if p.length < 20 then .error .wrongLength
  else if p.length ≠ 20 + le64 (slice p 4 8) then .error .wrongLength
  else .ok (.xorks (le64 (slice p 12 8)) (p.drop 20))

/-- `ZEROIZE`, format Z (R76, R80). -/
def decodeZeroize (p : List Byte) : Except Illegal Instr :=
  let cw := headerWord p
  if headerCv cw = true ∨ headerKlen cw ≠ 0 ∨ headerNlen cw ≠ 0 then .error .unusedFieldNotZero
  else if p.length ≠ 4 then .error .wrongLength
  else .ok .zeroize

/-- The decode procedure of R88. -/
def decode (p : List Byte) : Except Illegal Instr :=
  let cw := headerWord p
  if p.length < 4 then .error .shorterThanHeader
  else if headerReserved cw ≠ 0 then .error .reservedHeaderBits
  else if headerOpc cw = 0x01 then decodeInit p
  else if headerOpc cw = 0x04 then decodeBlock p
  else if headerOpc cw = 0x03 then decodeHchacha p
  else if headerOpc cw = 0x02 then decodeXorks p
  else if headerOpc cw = 0x05 then decodeZeroize p
  else .error .reservedOpcode

/-- The opcode of a command (R70). -/
def opcode : Instr → Byte
  | .init _ _ _ => 0x01
  | .xorks _ _ => 0x02
  | .hchacha _ _ => 0x03
  | .block _ _ _ => 0x04
  | .zeroize => 0x05

/-- The four header bytes (R72): `OPC`; `CV` in bit 0 of a byte whose other bits are 0; `KLEN`; `NLEN`. -/
def encodeHeader (opc : Byte) (cv : Bool) (klen nlen : Nat) : List Byte :=
  [opc, if cv then 1 else 0, BitVec.ofNat 8 klen, BitVec.ofNat 8 nlen]

/-- A format K packet (R73); without a counter `CTRF` is four zero bytes. -/
def encodeFormatK (opc : Byte) (ctr : Option Word) (key nonce : List Byte) : List Byte :=
  encodeHeader opc ctr.isSome key.length nonce.length ++ ser32 (ctr.getD 0) ++ key ++ nonce

/-- The packet of a command, from the formats K, X, H and Z (R73 to R76). -/
def encode (i : Instr) : List Byte :=
  match i with
  | .init ctr key nonce => encodeFormatK (opcode i) ctr key nonce
  | .xorks olen data =>
    encodeHeader (opcode i) false 0 0 ++ serNat 8 data.length ++ serNat 8 olen ++ data
  | .hchacha key nonce => encodeHeader (opcode i) false key.length nonce.length ++ key ++ nonce
  | .block ctr key nonce => encodeFormatK (opcode i) ctr key nonce
  | .zeroize => encodeHeader (opcode i) false 0 0

/-- The total length R81 condition 5 gives a packet that begins with these bytes (bytes it does not have
count as 0): used only to know how many operand bytes of 0 a table word is followed by. -/
def formatLength (p : List Byte) : Nat :=
  let cw := headerWord p
  if headerOpc cw = 0x01 ∨ headerOpc cw = 0x04 then 8 + headerKlen cw + headerNlen cw
  else if headerOpc cw = 0x03 then 4 + headerKlen cw + headerNlen cw
  else if headerOpc cw = 0x02 then 20 + le64 (slice p 4 8)
  else 4

/-- The packet whose bits are `w`, numbered as spec/opcode_table.json numbers them: bit 0 is the least
significant bit of packet byte 0, and byte `k` holds bits `8k+7 .. 8k` (R72). Above `nbits` every bit the
packet has is 0. -/
def tablePacket (nbits w : Nat) : List Byte :=
  let head := serNat ((nbits + 7) / 8) w
  head ++ List.replicate (formatLength head - head.length) 0

/-- The command the decoder reads from a row's word (the host's fixed name). -/
def decodeTableWord (nbits w : Nat) : Option Instr :=
  match decode (tablePacket nbits w) with
  | .ok i => some i
  | .error _ => none

end Sys2Proof
end

