-- ==== Sys2Proof/Machine/Operands.lean ====
section
/-! DEFINITION. How a command's operands become the values its pseudocode uses (spec/30_encoding.md R87):
the counter, the key and nonce words, the sizes each command accepts (spec/60_exceptions.md R214, R215), and
the comparison of the two lengths of `XORKS` (spec/44_xor.md R188). -/

namespace Sys2Proof.Machine

/-- `ctr` of format K (R87, R158): the packet's counter, or `P_DEFAULT_CTR` when `CV` = 0. -/
def counterOperand (ctr : Option Word) : Word := ctr.getD Config.defaultCtr

/-- `KLEN` = 32 (R214). -/
def keySizeOk (key : List Byte) : Bool := key.length == Config.keyBytes

/-- The key as eight words, `le32s(key)` (R21, R102). -/
def keyWords (key : List Byte) : Vector Word 8 := le32s 8 key

/-- A 12-byte nonce as three words, `le32s(nonce)` (R22, R102). -/
def nonceWords (nonce : List Byte) : Vector Word 3 := le32s 3 nonce

/-- The 16 bytes fed to HChaCha20 as four words, `le32s(n16)` (spec/42_hchacha.md R140). -/
def hnonceWords (n16 : List Byte) : Vector Word 4 := le32s 4 n16

/-- `XNONCE` (R145): four zero bytes and the last 8 bytes of the 24-byte nonce, as three words. -/
def xnonceWords (xn : List Byte) : Vector Word 3 :=
  #v[0, le32 (byteAt xn 16) (byteAt xn 17) (byteAt xn 18) (byteAt xn 19),
    le32 (byteAt xn 20) (byteAt xn 21) (byteAt xn 22) (byteAt xn 23)]

/-- Whether `XORKS` accepts the two lengths: equal, or with `P_DST_GE` a destination at least as long as
the input (R188). -/
def lengthsOk (ilen olen : Nat) : Bool :=
  if Config.dstGe then decide (ilen ≤ olen) else olen == ilen

end Sys2Proof.Machine
end

