-- ==== Sys2Proof/Machine/State.lean ====
section
/-! DEFINITION. The state of the core as spec/10_state.md R20 lists it, every register under the spec's own
name, with the two byte streams of spec/20_memory.md R64 as lists; the outcome types of a step; and the
state after reset (R39). The core has no memory, no program counter, no mode and no flag register (R33,
R34, R35, R50, R225), so there is none here. -/

namespace Sys2Proof.Machine

/-- `ST`, the lifecycle of the one Cipher context (R26). The fourth encoding, 3, is never reached and has
no constructor (spec/93_implementation_defined.md U4). -/
inductive Lifecycle where
  | uninit
  | ready
  | exhausted
  deriving DecidableEq, Repr

/-- `VAR`, the variant tag (R27). -/
inductive Variant where
  | classic
  | extended
  deriving DecidableEq, Repr

/-- The result codes of spec/60_exceptions.md R210. Code 7 is never produced and has no constructor. -/
inductive ResultCode where
  | ok
  | invalidKeySize
  | invalidNonceSize
  | bufferLengthMismatch
  | counterExhausted
  | illegalCommand
  | notReady
  deriving DecidableEq, Repr

/-- One transfer of a byte stream: the byte and its last-byte marker (R64 `cmd_data`, `cmd_last`,
`rsp_data`, `rsp_last`). -/
structure Beat where
  data : Byte
  last : Bool
  deriving DecidableEq, Repr

/-- What the outside world does to the core, in the order it happens: the host sends a byte of the command
stream (R64), or the reset input is asserted (spec/70_reset_and_hazards.md R240). -/
inductive HostInput where
  | beat (b : Beat)
  | reset
  deriving DecidableEq, Repr

/-- What the core finds at the head of its inputs: a complete packet, a reset, or neither yet. Each carries
the inputs that come after it. -/
inductive Transaction where
  | packet (p : List Byte) (rest : List HostInput)
  | reset (rest : List HostInput)
  | wait
  deriving DecidableEq, Repr

/-- The complete state of the core (R20), and the inputs and outputs of its ports. -/
structure State where
  /-- the key words; the subkey in the Extended variant (R21) -/
  K : Vector Word 8
  /-- the nonce words (R22) -/
  N : Vector Word 3
  /-- the block counter: the counter the next generated block will use (R23) -/
  CTR : Word
  /-- the keystream buffer; bytes `OFF .. 63` are unconsumed (R24) -/
  BUF : Vector Byte 64
  /-- the offset into `BUF`, 0 .. 64; 64 is "empty" (R25). Its type cannot hold 65 .. 127 (U4) -/
  OFF : Fin 65
  /-- the lifecycle state (R26) -/
  ST : Lifecycle
  /-- the variant tag (R27) -/
  VAR : Variant
  /-- the result code of the most recently completed command (R28) -/
  ERR : ResultCode
  /-- the working array of the block function, 0 when idle (R29) -/
  W : Vector Word 16
  /-- the saved pre-round state of the block function, 0 when idle (R30) -/
  S : Vector Word 16
  /-- completed rounds of the permutation in progress, 0 .. 20, 0 when idle (R31) -/
  RND : Fin 21
  /-- a command has been accepted and its response is not complete (R32) -/
  BUSY : Bool
  /-- what the host has done and the core has not yet taken, oldest first: the command stream and the reset
  input (R64, R240) -/
  input : List HostInput
  /-- the response stream delivered so far, oldest first (R64) -/
  rsp : List Beat
  deriving DecidableEq, Repr

/-- The core never stops with a fault: every command ends in a response, an error being a result code
(spec/60_exceptions.md, R210, R222). So there is no constructor, and none can be raised (safe). -/
inductive Fault where
  deriving DecidableEq, Repr

/-- Why a step has no meaning in this model. -/
inductive Refusal where
  /-- Raised only by an arm of `exec` whose command has no meaning yet, by name; no arm is such (safe). -/
  | notModelled (mnemonic : String)
  /-- Raised by `step` in a state with `BUSY` = 1, which no step leaves and reset does not give: the inside
  of a command is not observed at transaction level (R9, R32; U11). Log entry 5 (safe). -/
  | commandInProgress
  deriving DecidableEq, Repr

/-- The machine right after reset: the "reset value" column of R20, restated in R39, with nothing sent and
nothing answered yet. -/
def State.reset : State where
  K := Vector.replicate 8 0
  N := Vector.replicate 3 0
  CTR := 0
  BUF := Vector.replicate 64 0
  OFF := 64
  ST := .uninit
  VAR := .classic
  ERR := .ok
  W := Vector.replicate 16 0
  S := Vector.replicate 16 0
  RND := 0
  BUSY := false
  input := []
  rsp := []

end Sys2Proof.Machine
end

