-- ==== Sys2Proof/Machine/Flags.lean ====
section
/-! DEFINITION. The flag-like state of the core and its encodings: `ST`, `VAR`, `ERR` and `BUSY` are its only
flags (spec/10_state.md R34); there are no arithmetic flags. The status pins (R36) show them. -/

namespace Sys2Proof.Machine

/-- The encoding of `ST` (R26). -/
def lifecycleCode : Lifecycle → BitVec 2
  | .uninit => 0
  | .ready => 1
  | .exhausted => 2

/-- The encoding of `VAR` (R27). -/
def variantCode : Variant → BitVec 1
  | .classic => 0
  | .extended => 1

/-- The numbers of the result codes (spec/60_exceptions.md R210). -/
def resultNumber : ResultCode → BitVec 3
  | .ok => 0
  | .invalidKeySize => 1
  | .invalidNonceSize => 2
  | .bufferLengthMismatch => 3
  | .counterExhausted => 4
  | .illegalCommand => 5
  | .notReady => 6

/-- The first response byte: `RC[2:0]` is the result code and `RC[7:3]` = 0 (spec/30_encoding.md R85). -/
def resultByte (rc : ResultCode) : Byte := (resultNumber rc).setWidth 8

/-- The status pins (R36): everything of the state the host sees without a command. -/
structure StatusPins where
  st : BitVec 2
  var : BitVec 1
  err : BitVec 3
  busy : BitVec 1
  ctr : BitVec 32
  off : BitVec 7
  deriving DecidableEq, Repr

/-- What the status pins show (R36). -/
def statusPins (s : State) : StatusPins where
  st := lifecycleCode s.ST
  var := variantCode s.VAR
  err := resultNumber s.ERR
  busy := BitVec.ofBool s.BUSY
  ctr := s.CTR
  off := BitVec.ofNat 7 s.OFF.val

end Sys2Proof.Machine
end

