-- ==== Sys2Proof/Machine/Ops.lean ====
section
/-! DEFINITION. The shared operations of every command: taking a packet from the command stream
(spec/20_memory.md R64, R65), answering (spec/30_encoding.md R86), ending with an error, which is this
core's taking of an exception (spec/60_exceptions.md R211, R222), and reset (spec/70_reset_and_hazards.md
R240). There is no return from an exception: nothing was saved and the next command executes normally
(R223). -/

namespace Sys2Proof.Machine

/-- A byte string as a packet on a stream: `last` = 1 on its final byte only (R64). -/
def packetBeats : List Byte → List Beat
  | [] => []
  | [b] => [⟨b, true⟩]
  | b :: rest => ⟨b, false⟩ :: packetBeats rest

/-- What stands at the head of the inputs. A packet runs up to the first byte marked last (R64), so it has
at least one byte (R65). A reset before that byte abandons the bytes already sent (R240), and a packet
not yet complete is waited for (R9). -/
def nextTransaction : List HostInput → Transaction
  | [] => .wait
  | .reset :: rest => .reset rest
  | .beat b :: rest =>
    if b.last then .packet [b.data] rest
    else match nextTransaction rest with
      | .packet p rest' => .packet (b.data :: p) rest'
      | .reset rest' => .reset rest'
      | .wait => .wait

/-- A command packet is accepted: its bytes are taken and `BUSY` is 1 until the response is complete
(R32, R64). -/
def acceptPacket (rest : List HostInput) (s : State) : State :=
  { s with input := rest, BUSY := true }

/-- `respond(rc, payload)` (R86): record the result code, clear the transient state, deliver the response
packet `RC ++ payload` (R85) and become idle. -/
def respond (rc : ResultCode) (payload : List Byte) (s : State) : State :=
  { s with
    ERR := rc
    W := Vector.replicate 16 0
    S := Vector.replicate 16 0
    RND := 0
    BUSY := false
    rsp := s.rsp ++ packetBeats (resultByte rc :: payload) }

/-- `raise E` (R211): the command ends here, with the code and no payload. The one state write of R213
besides `ERR`, `ST <- EXHAUSTED`, is made by the command before it raises. -/
def raise (e : ResultCode) (s : State) : State := respond e [] s

/-- A malformed packet (R82): consumed whole, answered `IllegalCommand`. -/
def illegalCommand (s : State) : State := raise .illegalCommand s

/-- The reset event (R240): every state element takes its reset value. What the host has sent after the
reset and what it has already received are the host's and stay. -/
def resetEvent (rest : List HostInput) (s : State) : State :=
  { State.reset with input := rest, rsp := s.rsp }

/-- The host sends a packet next: its bytes go before whatever else waits (R64). -/
def sendPacket (p : List Byte) (s : State) : State :=
  { s with input := (packetBeats p).map HostInput.beat ++ s.input }

end Sys2Proof.Machine
end

