-- ==== Sys2Proof/Machine/Permutation.lean ====
section
/-! DEFINITION. The State Initializer (spec/40_state_init.md), the permutation and block function
(spec/41_permutation.md) and the HChaCha20 derivation (spec/42_hchacha.md): each micro-operation first as a
function of the words it mixes, then as the operation on `W`, `S` and `RND` the spec's pseudocode writes. -/

namespace Sys2Proof.Machine

/-- Apply `f` a fixed number of times. -/
def repeatTimes {α : Type} (f : α → α) : Nat → α → α
  | 0, x => x
  | n + 1, x => repeatTimes f n (f x)

/-- The constant words `C[0..3]` (R101): wiring, not state (R35). -/
def constantWords : Vector Word 4 := #v[0x61707865, 0x3320646e, 0x79622d32, 0x6b206574]

/-- The words INITSTATE writes (R100, R102). -/
def initStateWords (kw : Vector Word 8) (ctr : Word) (nw : Vector Word 3) : Vector Word 16 :=
  #v[constantWords[0], constantWords[1], constantWords[2], constantWords[3],
    kw[0], kw[1], kw[2], kw[3], kw[4], kw[5], kw[6], kw[7],
    ctr, nw[0], nw[1], nw[2]]

/-- The words HINIT writes (R140): four nonce words in place of counter and nonce. -/
def hinitWords (kw : Vector Word 8) (hw : Vector Word 4) : Vector Word 16 :=
  #v[constantWords[0], constantWords[1], constantWords[2], constantWords[3],
    kw[0], kw[1], kw[2], kw[3], kw[4], kw[5], kw[6], kw[7],
    hw[0], hw[1], hw[2], hw[3]]

/-- `QR(a, b, c, d)` (R111): its twelve steps in order, each reading what the steps before it wrote.
Irreducible, so that no proof unfolds the 80 quarter rounds of a permutation by accident. -/
@[irreducible] def quarterRound (a b c d : Fin 16) (w : Vector Word 16) : Vector Word 16 :=
  let w := w.set a (add32 w[a] w[b])
  let w := w.set d (xor32 w[d] w[a])
  let w := w.set d (rotl32 w[d] 16)
  let w := w.set c (add32 w[c] w[d])
  let w := w.set b (xor32 w[b] w[c])
  let w := w.set b (rotl32 w[b] 12)
  let w := w.set a (add32 w[a] w[b])
  let w := w.set d (xor32 w[d] w[a])
  let w := w.set d (rotl32 w[d] 8)
  let w := w.set c (add32 w[c] w[d])
  let w := w.set b (xor32 w[b] w[c])
  w.set b (rotl32 w[b] 7)

/-- The column groups (R113). -/
def columnGroups : List (Fin 16 × Fin 16 × Fin 16 × Fin 16) :=
  [(0, 4, 8, 12), (1, 5, 9, 13), (2, 6, 10, 14), (3, 7, 11, 15)]

/-- The diagonal groups (R114). -/
def diagonalGroups : List (Fin 16 × Fin 16 × Fin 16 × Fin 16) :=
  [(0, 5, 10, 15), (1, 6, 11, 12), (2, 7, 8, 13), (3, 4, 9, 14)]

/-- A quarter round on each group of a list, in its order. -/
def roundOver (groups : List (Fin 16 × Fin 16 × Fin 16 × Fin 16)) (w : Vector Word 16) : Vector Word 16 :=
  groups.foldl (fun w g => quarterRound g.1 g.2.1 g.2.2.1 g.2.2.2 w) w

/-- `COLROUND` (R113). -/
def columnRound (w : Vector Word 16) : Vector Word 16 := roundOver columnGroups w

/-- `DIAGROUND` (R114). -/
def diagonalRound (w : Vector Word 16) : Vector Word 16 := roundOver diagonalGroups w

/-- `DROUND` (R115): the column pass comes first. -/
def doubleRound (w : Vector Word 16) : Vector Word 16 := diagonalRound (columnRound w)

/-- The words `PERM` leaves in `W` (R116): ten double rounds. -/
@[irreducible] def permWords (w : Vector Word 16) : Vector Word 16 := repeatTimes doubleRound Config.doubleRounds w

/-- The words `FEEDFWD` leaves in `W` (R119): word by word, no carry between words. -/
def feedForwardWords (w s : Vector Word 16) : Vector Word 16 :=
  Vector.ofFn fun i => add32 w[i] s[i]

/-- `SER` (R121), `ser32s` of the sixteen words as 64 bytes: byte `i` is byte `i mod 4` of word `i div 4`
(R54). -/
def ser (w : Vector Word 16) : Vector Byte 64 :=
  Vector.ofFn fun i => wordByte (w[i.val / 4]'(by omega)) (i.val % 4)

/-- Words 0 to 3 and 12 to 15, in that order (R141). -/
def subkeyOf (w : Vector Word 16) : Vector Word 8 :=
  #v[w[0], w[1], w[2], w[3], w[12], w[13], w[14], w[15]]

/-- The keystream block of a key, a counter and a nonce as one value (R120): what `blockFn` returns. -/
@[irreducible] def blockBytes (kw : Vector Word 8) (ctr : Word) (nw : Vector Word 3) : Vector Byte 64 :=
  ser (feedForwardWords (permWords (initStateWords kw ctr nw)) (initStateWords kw ctr nw))

/-- The HChaCha20 subkey of a key and 16 nonce bytes as one value (R141): what `hchacha20` returns. -/
@[irreducible] def subkeyWords (kw : Vector Word 8) (hw : Vector Word 4) : Vector Word 8 :=
  subkeyOf (permWords (hinitWords kw hw))

/-- `INITSTATE` (R102): writes `W` and nothing else. -/
def initState (kw : Vector Word 8) (ctr : Word) (nw : Vector Word 3) (s : State) : State :=
  { s with W := initStateWords kw ctr nw }

/-- `HINIT` (R140): writes `W` and nothing else. -/
def hinit (kw : Vector Word 8) (hw : Vector Word 4) (s : State) : State :=
  { s with W := hinitWords kw hw }

/-- `SAVE` (R118). -/
def save (s : State) : State := { s with S := s.W }

/-- One double round of `PERM`, counting its two rounds in `RND` (R116). -/
def permDoubleRound (s : State) : State :=
  let s := { s with W := columnRound s.W, RND := s.RND + 1 }
  { s with W := diagonalRound s.W, RND := s.RND + 1 }

/-- `PERM` (R116). `RND` goes back to 0 when the command ends (R31, R86). -/
def perm (s : State) : State := repeatTimes permDoubleRound Config.doubleRounds { s with RND := 0 }

/-- `FEEDFWD` (R119). -/
def feedForward (s : State) : State := { s with W := feedForwardWords s.W s.S }

/-- `BLOCKFN` (R120): INITSTATE, SAVE, PERM, FEEDFWD, and the 64 bytes of SER. -/
def blockFn (kw : Vector Word 8) (ctr : Word) (nw : Vector Word 3) (s : State) : Vector Byte 64 × State :=
  let s := feedForward (perm (save (initState kw ctr nw s)))
  (ser s.W, s)

/-- `HCHACHA20` (R141): HINIT and PERM, with neither SAVE nor FEEDFWD; the eight subkey words. -/
def hchacha20 (kw : Vector Word 8) (hw : Vector Word 4) (s : State) : Vector Word 8 × State :=
  let s := perm (hinit kw hw s)
  (subkeyOf s.W, s)

end Sys2Proof.Machine
end

