-- ==== Sys2Proof/Machine/BlockFunction.lean ====
section
/-! DEFINITION. The command `BLOCK` (spec/41_permutation.md section 4). -/

namespace Sys2Proof.Machine

/-- `BLOCK` (R125): one keystream block of a host-supplied key, counter and 12-byte nonce. The context is
neither read nor written, in every `ST`. -/
def execBlock (ctr : Option Word) (key nonce : List Byte) (s : State) : Host.Outcome State Fault Refusal :=
  if keySizeOk key = false then .next (raise .invalidKeySize s)
  else if nonce.length ≠ Config.nonceBytes then .next (raise .invalidNonceSize s)
  else
    let r := blockFn (keyWords key) (counterOperand ctr) (nonceWords nonce) s
    .next (respond .ok r.1.toList r.2)

end Sys2Proof.Machine
end

