-- ==== Sys2Proof/Machine/Construction.lean ====
section
/-! DEFINITION. Construction (spec/43_keystream.md section 1): the command `INIT`. -/

namespace Sys2Proof.Machine

/-- The writes of a successful `INIT`, all made together (R157). -/
def loadContext (kw : Vector Word 8) (nw : Vector Word 3) (var : Variant) (ctr : Word) (s : State) : State :=
  { s with
    K := kw
    N := nw
    VAR := var
    CTR := ctr
    BUF := Vector.replicate 64 0
    OFF := 64
    ST := .ready }

/-- The Classic variant of R157: a 12-byte nonce. -/
def initClassic (ctr : Word) (key nonce : List Byte) (s : State) : State :=
  loadContext (keyWords key) (nonceWords nonce) .classic ctr s

/-- The Extended variant of R157 and R146: a 24-byte nonce, whose first 16 bytes derive the subkey. -/
def initExtended (ctr : Word) (key nonce : List Byte) (s : State) : State :=
  let r := hchacha20 (keyWords key) (hnonceWords (slice nonce 0 Config.hnonceBytes)) s
  loadContext r.1 (xnonceWords nonce) .extended ctr r.2

/-- `INIT` (R156): key size, then nonce size, then the writes. Accepted in every `ST` (R159); a failure
writes `ERR` only (R160). -/
def execInit (ctr : Option Word) (key nonce : List Byte) (s : State) : Host.Outcome State Fault Refusal :=
  if keySizeOk key = false then .next (raise .invalidKeySize s)
  else if nonce.length = Config.nonceBytes then
    .next (respond .ok [] (initClassic (counterOperand ctr) key nonce s))
  else if nonce.length = Config.xnonceBytes then
    .next (respond .ok [] (initExtended (counterOperand ctr) key nonce s))
  else .next (raise .invalidNonceSize s)

end Sys2Proof.Machine
end

