-- ==== Sys2Proof/Machine/NonceExtender.lean ====
section
/-! DEFINITION. The command `HCHACHA` (spec/42_hchacha.md R143). -/

namespace Sys2Proof.Machine

/-- `HCHACHA` (R143): the subkey of a host-supplied key and 16 nonce bytes. The context is neither read nor
written, in every `ST`. -/
def execHchacha (key nonce : List Byte) (s : State) : Host.Outcome State Fault Refusal :=
  if keySizeOk key = false then .next (raise .invalidKeySize s)
  else if nonce.length ≠ Config.hnonceBytes then .next (raise .invalidNonceSize s)
  else
    let r := hchacha20 (keyWords key) (hnonceWords nonce) s
    .next (respond .ok (ser32s r.1) r.2)

end Sys2Proof.Machine
end

