-- ==== Sys2Proof/Machine/Release.lean ====
section
/-! DEFINITION. The command `ZEROIZE` (spec/44_xor.md section 3). -/

namespace Sys2Proof.Machine

/-- The writes of `ZEROIZE` (R196) before it responds. -/
def clearContext (s : State) : State :=
  { s with
    K := Vector.replicate 8 0
    N := Vector.replicate 3 0
    CTR := 0
    BUF := Vector.replicate 64 0
    OFF := 64
    W := Vector.replicate 16 0
    S := Vector.replicate 16 0
    RND := 0
    VAR := .classic
    ST := .uninit }

/-- `ZEROIZE` (R196): destroy the context; it succeeds in every `ST`. -/
def execZeroize (s : State) : Host.Outcome State Fault Refusal :=
  .next (respond .ok [] (clearContext s))

end Sys2Proof.Machine
end

