-- ==== Sys2Proof/Machine/Keystream.lean ====
section
/-! DEFINITION. The Keystream Generator (spec/43_keystream.md): lazy refill, the admissibility of a request,
and the consumption of keystream bytes one at a time (spec/44_xor.md R190). -/

namespace Sys2Proof.Machine

/-- Byte `i` of a 64-byte block or buffer. Every use has `i < 64`. -/
def bufByte (b : Vector Byte 64) (i : Nat) : Byte := b[i]?.getD 0

/-- `BUF[OFF] <- 0x00` (R24, R190). -/
def discardByte (b : Vector Byte 64) (i : Nat) : Vector Byte 64 := b.setIfInBounds i 0

/-- `OFF + 1` in 0 .. 64 (R190). Every use has `OFF` < 64, since a buffer at 64 is refilled first. -/
def offNext (o : Fin 65) : Fin 65 := o + 1

/-- `rem`, the unconsumed bytes of the buffer (R25, R165). -/
def remaining (s : State) : Nat := Config.blockBytes - s.OFF.val

/-- `nb`, the fresh blocks a request of `n` bytes needs: `ceil((n - rem) / 64)`, and 0 if the buffer
holds enough (R165, R195). -/
def blocksNeeded (s : State) (n : Nat) : Nat :=
  if n ≤ remaining s then 0 else (n - remaining s + (Config.blockBytes - 1)) / Config.blockBytes

/-- Whether a request of `n` bytes can be served whole (R165), computed without wrap-around: it needs no
block, or its last block is followed by a counter within 32 bits. -/
def admissible (s : State) (n : Nat) : Bool :=
  decide (n ≤ remaining s) || decide (s.CTR.toNat + blocksNeeded s n ≤ Config.ctrMax)

/-- `REFILL` (R163). The block uses the counter before the increment. `XORKS` runs it only with `CTR` below
its maximum (R165), so the increment never wraps (R164). -/
def refill (s : State) : State :=
  let r := blockFn s.K s.CTR s.N s
  { r.2 with BUF := r.1, OFF := 0, CTR := s.CTR + 1 }

/-- `XORBYTE(x)` (R190): refill if the buffer is empty, then consume one byte. -/
def xorByte (x : Byte) (s : State) : Byte × State :=
  let s := if s.OFF = 64 then refill s else s
  (xor8 x (bufByte s.BUF s.OFF.val),
    { s with BUF := discardByte s.BUF s.OFF.val, OFF := offNext s.OFF })

/-- Step 7 of `XORKS` (R185): the bytes in increasing index order (R59). -/
def xorBytes : List Byte → State → List Byte × State
  | [], s => ([], s)
  | x :: rest, s =>
    let r := xorByte x s
    let t := xorBytes rest r.2
    (r.1 :: t.1, t.2)

end Sys2Proof.Machine
end

