-- ==== Sys2Proof/Machine/XorEngine.lean ====
section
/-! DEFINITION. The command `XORKS` (spec/44_xor.md section 1). -/

namespace Sys2Proof.Machine

/-- `XORKS` (R185): its eight steps in order. `ILEN` is the number of input bytes (R75). -/
def execXorks (olen : Nat) (data : List Byte) (s : State) : Host.Outcome State Fault Refusal :=
  let ilen := data.length
  if s.ST = .uninit then .next (raise .notReady s)
  else if lengthsOk ilen olen = false then .next (raise .bufferLengthMismatch s)
  else if s.ST = .exhausted then .next (raise .counterExhausted s)
  else if ilen = 0 then .next (respond .ok [] s)
  else if admissible s ilen = false then .next (raise .counterExhausted { s with ST := .exhausted })
  else
    let r := xorBytes data s
    .next (respond .ok r.1 r.2)

end Sys2Proof.Machine
end

