-- ==== Sys2Proof/Machine/Dispatch.lean ====
section
/-! DEFINITION. One arm per command of spec/opcode_table.json, each a direct call of its meaning. -/

namespace Sys2Proof.Machine

def exec (i : Instr) (s : State) : Host.Outcome State Fault Refusal :=
  match i with
  | .init ctr key nonce => Sys2Proof.Machine.execInit ctr key nonce s
  | .xorks olen data => Sys2Proof.Machine.execXorks olen data s
  | .hchacha key nonce => Sys2Proof.Machine.execHchacha key nonce s
  | .block ctr key nonce => Sys2Proof.Machine.execBlock ctr key nonce s
  | .zeroize => Sys2Proof.Machine.execZeroize s

end Sys2Proof.Machine
end

