-- ==== Sys2Proof/Machine/Step.lean ====
section
/-! DEFINITION. One step of the core: one transaction of its ports (spec/00_scope.md R9, spec/20_memory.md
R58, R65). There is no program counter (spec/10_state.md R33): the next command is the next packet the
host sends. -/

namespace Sys2Proof.Machine

/-- An accepted packet is decoded before any operand is examined (spec/30_encoding.md R83); a malformed one
is answered `IllegalCommand` (R82), any other executed. -/
def runPacket (p : List Byte) (s : State) : Host.Outcome State Fault Refusal :=
  match decode p with
  | .ok i => exec i s
  | .error _ => .next (illegalCommand s)

/-- One transaction: a reset, whatever the core is doing (R240, R224); a whole command packet, executed to
its response (R58); or, when neither is there, nothing (the core waits for a packet, R240). A packet is
taken only with `BUSY` = 0 (R64); the inside of a command is not represented (log entry 5). -/
def step (s : State) : Host.Outcome State Fault Refusal :=
  match nextTransaction s.input with
  | .reset rest => .next (resetEvent rest s)
  | .packet p rest =>
    if s.BUSY then .refused .commandInProgress else runPacket p (acceptPacket rest s)
  | .wait => if s.BUSY then .refused .commandInProgress else .next s

/-- The host sends, next, the packet whose bits are `w` (numbered as spec/opcode_table.json numbers them);
nothing else changes. -/
def State.withFetchWord (s : State) (nbits w : Nat) : State := sendPacket (tablePacket nbits w) s

end Sys2Proof.Machine
end

