-- ==== Sys2Proof/Safety.lean ====
section
/-! DEFINITION. The terms claims are stated in: the invariant of the states between commands
(spec/10_state.md R38), the keystream as a mathematical object (spec/43_keystream.md R161, R162), the
lifecycle table (spec/60_exceptions.md R220) and the payload of a successful command (spec/30_encoding.md
R85). The machine uses none of them. -/

namespace Sys2Proof.Safety

open Sys2Proof.Machine

/-- No command is in progress: `BUSY` = 0, and the transient state is clear (R29 to R32). -/
structure Idle (s : State) : Prop where
  busy : s.BUSY = false
  working : s.W = Vector.replicate 16 0
  saved : s.S = Vector.replicate 16 0
  rounds : s.RND = 0

/-- The invariants between commands, R38. Its point 1 (`ST` is 0, 1 or 2) holds by the type of `ST`. -/
structure Inv (s : State) : Prop where
  /-- `BUSY` = 0 and point 4 -/
  idle : Idle s
  /-- point 2; `OFF` ≤ 64 holds by its type -/
  offset : s.OFF ≠ 0
  /-- point 3: consumed positions hold 0 -/
  consumed : ∀ i, i < s.OFF.val → bufByte s.BUF i = 0
  /-- point 5: without a context everything has its reset value -/
  empty : s.ST = .uninit →
    s.K = Vector.replicate 8 0 ∧ s.N = Vector.replicate 3 0 ∧ s.CTR = 0 ∧
    s.BUF = Vector.replicate 64 0 ∧ s.OFF = 64 ∧ s.VAR = .classic
  /-- point 6: unconsumed bytes are those of the last block generated -/
  unconsumed : s.ST ≠ .uninit → s.OFF.val < 64 →
    1 ≤ s.CTR.toNat ∧
    ∀ i, s.OFF.val ≤ i → i < 64 → bufByte s.BUF i = bufByte (blockBytes s.K (s.CTR - 1) s.N) i

/-- Keystream byte number `q` of the context with words `kw`, `nw` and initial counter `c0`: byte `q mod 64`
of block `q div 64` (R161). Meaningful while `q < 64 * (0xFFFFFFFF - c0)`. -/
def streamByte (kw : Vector Word 8) (nw : Vector Word 3) (c0 : Word) (q : Nat) : Byte :=
  bufByte (blockBytes kw (c0 + BitVec.ofNat 32 (q / 64)) nw) (q % 64)

/-- The context `kw`, `nw`, `c0` is ready and `q` of its keystream bytes have been consumed: R162 for `CTR`
and `OFF`, R24 for the bytes still in the buffer. -/
structure AtPosition (s : State) (kw : Vector Word 8) (nw : Vector Word 3) (c0 : Word) (q : Nat) : Prop where
  ready : s.ST = .ready
  key : s.K = kw
  nonce : s.N = nw
  counter : s.CTR.toNat = c0.toNat + (q + 63) / 64
  offset : s.OFF.val = if q % 64 = 0 then 64 else q % 64
  buffer : ∀ i, s.OFF.val ≤ i → i < 64 → bufByte s.BUF i = streamByte kw nw c0 (64 * (q / 64) + i)

/-- The keystream byte that the `j`-th byte of a request meets: first the buffered bytes, then those of the
blocks with counters `CTR`, `CTR + 1`, ... (R59, R165, R167). -/
def requestByte (s : State) (j : Nat) : Byte :=
  if j < 64 - s.OFF.val then bufByte s.BUF (s.OFF.val + j)
  else
    bufByte (blockBytes s.K (s.CTR + BitVec.ofNat 32 ((j - (64 - s.OFF.val)) / 64)) s.N)
      ((j - (64 - s.OFF.val)) % 64)

/-- Data combined with a keystream byte by byte: `output[i] = input[i] XOR keystream[i]` (R185). -/
def xorWith (ks : Nat → Byte) (data : List Byte) : List Byte := data.mapIdx fun i x => x ^^^ ks i

/-- `ceil((n - rem) / 64)`, the blocks a request for more than `rem` bytes needs (R165). -/
def freshBlocks (s : State) (n : Nat) : Nat := (n - (64 - s.OFF.val) + 63) / 64

/-- A request of `n` bytes cannot be served whole: it needs a block, and the counter after its last block
would pass 32 bits (R164, R165). -/
abbrev exhausts (s : State) (n : Nat) : Prop :=
  64 - s.OFF.val < n ∧ 0xFFFFFFFF < s.CTR.toNat + freshBlocks s n

/-- `ST` after a packet, row by row of the table of R220; `none` is a malformed packet. -/
def lifecycleAfter (cmd : Option Instr) (s : State) : Lifecycle :=
  match cmd with
  | none => s.ST
  | some .zeroize => .uninit
  | some (.init _ key nonce) =>
    if key.length = 32 ∧ (nonce.length = 12 ∨ nonce.length = 24) then .ready else s.ST
  | some (.xorks olen data) =>
    match s.ST with
    | .uninit => .uninit
    | .exhausted => .exhausted
    | .ready => if olen = data.length ∧ exhausts s data.length then .exhausted else .ready
  | some (.block _ _ _) => s.ST
  | some (.hchacha _ _) => s.ST

/-- The payload of a command that ends with `OK` (R85). -/
def okPayload (i : Instr) (s : State) : List Byte :=
  match i with
  | .init _ _ _ => []
  | .xorks _ data => xorWith (requestByte s) data
  | .hchacha key nonce => ser32s (subkeyWords (le32s 8 key) (le32s 4 nonce))
  | .block ctr key nonce => (blockBytes (le32s 8 key) (ctr.getD 0) (le32s 3 nonce)).toList
  | .zeroize => []

/-- The host has sent the packet `p` next, and `rest` after it (R64). -/
abbrev Offered (s : State) (p : List Byte) (rest : List HostInput) : Prop :=
  p ≠ [] ∧ s.input = (packetBeats p).map HostInput.beat ++ rest

end Sys2Proof.Safety
end

