-- ==== Sys2Proof/Certificates/Slice0/Obligations.lean ====
section
/-! DEFINITION. The statements for the provers, from the numbered rules of spec/. Each docstring names the
rule it formalises, or says that it is derived and from what. `respond rc payload s` in a conclusion is the
end of a command as `Obligations.RespondEndsTheCommand` spells it out: it writes `ERR`, clears the transient
state, appends one response packet, and leaves every other field of `s` alone. -/

open Sys2Proof Sys2Proof.Machine Sys2Proof.Safety

/-! ## Reset, the streams and the step -/

/-- R39: the reset value of every state element, word by word; `OFF` = 64 and `ST` = `UNINIT`, the rest 0.
It holds of the reset state, and of the state after the reset input was asserted in any state. -/
def Obligations.ResetValuesOfEveryElement : Prop :=
  ∀ t : State, (t = State.reset ∨ ∃ rest s, t = resetEvent rest s) →
    (∀ i : Fin 8, t.K[i] = 0) ∧ (∀ i : Fin 3, t.N[i] = 0) ∧ t.CTR = 0 ∧
    (∀ i : Fin 64, t.BUF[i] = 0) ∧ (∀ i : Fin 16, t.W[i] = 0) ∧ (∀ i : Fin 16, t.S[i] = 0) ∧
    t.RND = 0 ∧ variantCode t.VAR = 0 ∧ resultNumber t.ERR = 0 ∧ t.BUSY = false ∧
    t.OFF.val = 64 ∧ lifecycleCode t.ST = 0

/-- Derived from spec/70_reset_and_hazards.md section 1 and U12: asserting reset, in any state (a command in
progress included) and after any part of a packet, gives the reset state; the bytes already sent of an
incomplete packet are abandoned. That the later inputs and the responses already delivered stay is the
model's reading, log entry 3. -/
def Obligations.ResetAbandonsWhatWasBegun : Prop :=
  ∀ (s : State) (sent : List Byte) (rest : List HostInput),
    s.input = sent.map (fun b => HostInput.beat ⟨b, false⟩) ++ HostInput.reset :: rest →
    step s = .next { State.reset with input := rest, rsp := s.rsp }

/-- Derived from spec/20_memory.md section 5: a packet is exactly the bytes up to and including the first
one marked last. Whatever bytes are sent as a packet are found as that packet, and a packet that is found
was sent so, with at least one byte. -/
def Obligations.PacketEndsAtTheByteMarkedLast : Prop :=
  (∀ (p : List Byte) (rest : List HostInput), p ≠ [] →
    nextTransaction ((packetBeats p).map HostInput.beat ++ rest) = .packet p rest) ∧
  (∀ (inputs rest : List HostInput) (p : List Byte), nextTransaction inputs = .packet p rest →
    p ≠ [] ∧ inputs = (packetBeats p).map HostInput.beat ++ rest)

/-- Derived from spec/00_scope.md section 4 and spec/20_memory.md section 4: with no command in progress, a
packet that decodes to a command is taken from the stream, `BUSY` is 1, and the step is that command. -/
def Obligations.StepRunsTheDecodedCommand : Prop :=
  ∀ (s : State) (p : List Byte) (rest : List HostInput) (i : Instr),
    s.BUSY = false → nextTransaction s.input = .packet p rest → decode p = .ok i →
    step s = exec i { s with input := rest, BUSY := true }

/-- R82: a malformed packet is consumed whole and answered with code 5 and no payload, and changes nothing
but `ERR`; opcodes 0x00 and 0x06 .. 0xFF are malformed, whatever follows them. -/
def Obligations.MalformedPacketIsIllegalCommand : Prop :=
  (∀ (s : State) (p : List Byte) (rest : List HostInput),
    Idle s → Offered s p rest → packetWellFormed p = false →
    step s = .next { s with
      input := rest, ERR := .illegalCommand, rsp := s.rsp ++ [⟨0x05, true⟩] }) ∧
  (∀ p : List Byte, byteAt p 0 = 0 ∨ 6 ≤ (byteAt p 0).toNat → packetWellFormed p = false)

/-- R65: every packet, whether it decodes or not, is answered by exactly one response packet (a result byte
and a payload) in the step that takes it, before the inputs after it are looked at; and no packet is
empty. -/
def Obligations.EveryPacketGetsOneResponse : Prop :=
  (∀ (s : State) (p : List Byte) (rest : List HostInput), s.BUSY = false → Offered s p rest →
    ∃ t payload, step s = .next t ∧ t.input = rest ∧ t.BUSY = false ∧
      t.rsp = s.rsp ++ packetBeats (resultByte t.ERR :: payload)) ∧
  (∀ (inputs rest : List HostInput) (p : List Byte), nextTransaction inputs = .packet p rest → p ≠ [])

/-- Derived from spec/70_reset_and_hazards.md sections 1 and 3: with no command in progress every step has a
next state, with no command in progress: the core never stops. -/
def Obligations.CoreNeverStops : Prop :=
  ∀ s : State, s.BUSY = false → ∃ t, step s = .next t ∧ t.BUSY = false

/-- Derived from spec/70_reset_and_hazards.md section 1: without a complete packet and without a reset the
core waits, and nothing changes. -/
def Obligations.IdleCoreWaits : Prop :=
  ∀ (s : State) (sent : List Byte), s.BUSY = false →
    s.input = sent.map (fun b => HostInput.beat ⟨b, false⟩) → step s = .next s

/-- The model's choice, log entry 5 (spec/93_implementation_defined.md U11 leaves it open): in a state with
`BUSY` = 1 a step is refused, unless a reset comes. -/
def Obligations.CommandInProgressIsRefused : Prop :=
  ∀ s : State, s.BUSY = true → (∀ rest, nextTransaction s.input ≠ .reset rest) →
    step s = .refused .commandInProgress

/-- Derived from spec/30_encoding.md section 6 (R86): what `respond` does, field by field, and that an error
responds with no payload. -/
def Obligations.RespondEndsTheCommand : Prop :=
  ∀ (rc : ResultCode) (payload : List Byte) (s : State),
    respond rc payload s =
      { s with
        ERR := rc, W := Vector.replicate 16 0, S := Vector.replicate 16 0, RND := 0, BUSY := false
        rsp := s.rsp ++ packetBeats ((resultNumber rc).setWidth 8 :: payload) } ∧
    raise rc s = respond rc [] s

/-! ## Encoding -/

/-- Derived from spec/30_encoding.md section 8: decoding the packet of a well-formed command gives the
command, every operand at every value. -/
def Obligations.DecodeOfEncodeIsTheCommand : Prop :=
  ∀ i : Instr, i.wellFormed = true → decode (encode i) = .ok i

/-- Derived from spec/30_encoding.md section 8: a command has exactly one packet, so a packet that decodes
is the packet of what it decodes to. It rests on log entry 1: that a decoded command keeps whether its packet
carried a counter is the model's choice. With the default counter put in while decoding, as R88 writes it, a
packet without a counter and one with the counter 0 would decode alike. -/
def Obligations.EveryCommandHasOnePacket : Prop :=
  ∀ (p : List Byte) (i : Instr), decode p = .ok i → encode i = p ∧ i.wellFormed = true

/-- R81: the decoder accepts exactly the packets that meet the six conditions. -/
def Obligations.DecoderAcceptsExactlyWellFormedPackets : Prop :=
  ∀ p : List Byte, (∃ i, decode p = .ok i) ↔ packetWellFormed p = true

/-- Sanity, from the packets written out in spec/30_encoding.md section 4 and spec/95_test_vectors.md: one
packet of each command. -/
def Obligations.SpecPacketsDecode : Prop :=
  let key : List Byte := (List.range 32).map (BitVec.ofNat 8)
  decode ([0x01, 0x00, 0x20, 0x0c] ++ [0, 0, 0, 0] ++ key ++ List.replicate 12 0)
    = .ok (.init none key (List.replicate 12 0)) ∧
  decode ([0x02, 0x00, 0x00, 0x00] ++ [3, 0, 0, 0, 0, 0, 0, 0] ++ [4, 0, 0, 0, 0, 0, 0, 0] ++ [0xaa, 0xbb, 0xcc])
    = .ok (.xorks 4 [0xaa, 0xbb, 0xcc]) ∧
  decode ([0x03, 0x00, 0x20, 0x10] ++ key ++ List.replicate 16 7)
    = .ok (.hchacha key (List.replicate 16 7)) ∧
  decode ([0x04, 0x01, 0x20, 0x0c] ++ [1, 0, 0, 0x80] ++ key ++ List.replicate 12 9)
    = .ok (.block (some 0x80000001) key (List.replicate 12 9)) ∧
  decode [0x05, 0x00, 0x00, 0x00] = .ok .zeroize

/-! ## The permutation, the block function and HChaCha20 -/

/-- Derived from spec/40_state_init.md (R100, R101): the constant words are the ASCII text
"expand 32-byte k" read as little-endian words, with the values of the table there. -/
def Obligations.ConstantWordsReadTheText : Prop :=
  constantWords =
    le32s 4 [0x65, 0x78, 0x70, 0x61, 0x6e, 0x64, 0x20, 0x33, 0x32, 0x2d, 0x62, 0x79, 0x74, 0x65, 0x20, 0x6b] ∧
  constantWords[0] = 0x61707865 ∧ constantWords[1] = 0x3320646e ∧
  constantWords[2] = 0x79622d32 ∧ constantWords[3] = 0x6b206574

/-- R102: INITSTATE writes all sixteen words of `W`, constants, key, counter and nonce, and nothing else. -/
def Obligations.InitStateLaysOutTheWords : Prop :=
  ∀ (kw : Vector Word 8) (ctr : Word) (nw : Vector Word 3) (s : State),
    (∀ i : Fin 4, (initState kw ctr nw s).W[i.val] = constantWords[i]) ∧
    (∀ i : Fin 8, (initState kw ctr nw s).W[4 + i.val] = kw[i]) ∧
    (initState kw ctr nw s).W[12] = ctr ∧
    (∀ i : Fin 3, (initState kw ctr nw s).W[13 + i.val] = nw[i]) ∧
    { initState kw ctr nw s with W := s.W } = s

/-- R140: HINIT writes constants, key and four nonce words into `W`, and nothing else. -/
def Obligations.HinitLaysOutTheWords : Prop :=
  ∀ (kw : Vector Word 8) (hw : Vector Word 4) (s : State),
    (∀ i : Fin 4, (hinit kw hw s).W[i.val] = constantWords[i]) ∧
    (∀ i : Fin 8, (hinit kw hw s).W[4 + i.val] = kw[i]) ∧
    (∀ i : Fin 4, (hinit kw hw s).W[12 + i.val] = hw[i]) ∧
    { hinit kw hw s with W := s.W } = s

/-- R111: a quarter round on four distinct words, its twelve steps written as equations on the four values;
every other word is unchanged. -/
def Obligations.QuarterRoundMixesFourWords : Prop :=
  ∀ (a b c d : Fin 16) (w : Vector Word 16),
    a ≠ b → a ≠ c → a ≠ d → b ≠ c → b ≠ d → c ≠ d →
    let a1 := w[a] + w[b]
    let d1 := (w[d] ^^^ a1).rotateLeft 16
    let c1 := w[c] + d1
    let b1 := (w[b] ^^^ c1).rotateLeft 12
    let a2 := a1 + b1
    let d2 := (d1 ^^^ a2).rotateLeft 8
    let c2 := c1 + d2
    let b2 := (b1 ^^^ c2).rotateLeft 7
    ∀ i : Fin 16, (quarterRound a b c d w)[i] =
      if i = a then a2 else if i = b then b2 else if i = c then c2 else if i = d then d2 else w[i]

/-- Derived from spec/41_permutation.md section 2 (R117): the four quarter rounds of a pass give the same
result in any order. -/
def Obligations.QuarterRoundsOfAPassCommute : Prop :=
  ∀ (groups : List (Fin 16 × Fin 16 × Fin 16 × Fin 16)) (w : Vector Word 16),
    (groups.Perm columnGroups → roundOver groups w = columnRound w) ∧
    (groups.Perm diagonalGroups → roundOver groups w = diagonalRound w)

/-- R116: PERM is twenty rounds, round `r` a column pass when `r` is even and a diagonal pass when it is
odd; each is counted in `RND`, which is 0 again at the end of the command; nothing but `W` and `RND` is
touched. -/
def Obligations.PermIsTwentyAlternatingRounds : Prop :=
  ∀ s : State,
    perm s =
      { s with
        W := (List.range 20).foldl (fun w r => if r % 2 = 0 then columnRound w else diagonalRound w) s.W
        RND := 20 } ∧
    (∀ rc payload, (respond rc payload (perm s)).RND = 0)

/-- Derived from spec/41_permutation.md sections 1 and 2 (R112, R122): the permutation is a bijection on the
sixteen words, and takes the all-zero state to itself. -/
def Obligations.PermIsABijection : Prop :=
  (∀ v w : Vector Word 16, permWords v = permWords w → v = w) ∧
  (∀ w : Vector Word 16, ∃ v, permWords v = w) ∧
  permWords (Vector.replicate 16 0) = Vector.replicate 16 0

/-- R119: FEEDFWD adds the saved word of the same index, modulo 2^32, and touches nothing but `W`. -/
def Obligations.FeedForwardAddsWordByWord : Prop :=
  ∀ s : State,
    (∀ i : Fin 16, (feedForward s).W[i].toNat = (s.W[i].toNat + s.S[i].toNat) % 2 ^ 32) ∧
    { feedForward s with W := s.W } = s

/-- R121: byte `4j + k` of the block is bits `8k+7 .. 8k` of word `j`, and the block is the concatenation of
the words serialized in order. -/
def Obligations.SerializationIsLittleEndian : Prop :=
  ∀ w : Vector Word 16,
    (∀ (j : Fin 16) (k : Fin 4),
      (ser w)[4 * j.val + k.val] = BitVec.ofNat 8 (w[j].toNat / 2 ^ (8 * k.val))) ∧
    (ser w).toList = ser32s w

/-- R120: BLOCKFN is INITSTATE, SAVE, PERM, FEEDFWD and SER; its bytes depend on its operands alone, and of
the state it touches the transient part only. -/
def Obligations.BlockFunctionDependsOnItsOperandsOnly : Prop :=
  ∀ (kw : Vector Word 8) (ctr : Word) (nw : Vector Word 3) (s s' : State),
    (blockFn kw ctr nw s).1 = (blockFn kw ctr nw s').1 ∧
    (blockFn kw ctr nw s).1 = ser (feedForward (perm (save (initState kw ctr nw s)))).W ∧
    { (blockFn kw ctr nw s).2 with W := s.W, S := s.S, RND := s.RND } = s

/-- R141: HCHACHA20 returns words 0 to 3 and 12 to 15 of the permuted HINIT state, with no feed-forward,
and does not touch `S`. -/
def Obligations.HChaChaTakesEightPermutedWords : Prop :=
  ∀ (kw : Vector Word 8) (hw : Vector Word 4) (s : State),
    (∀ i : Fin 4, (hchacha20 kw hw s).1[i.val] = (perm (hinit kw hw s)).W[i.val]) ∧
    (∀ i : Fin 4, (hchacha20 kw hw s).1[4 + i.val] = (perm (hinit kw hw s)).W[12 + i.val]) ∧
    { (hchacha20 kw hw s).2 with W := s.W, RND := s.RND } = s

/-- Derived from spec/42_hchacha.md R142: HChaCha20 and the block function differ in the last four input
words and the feed-forward only: with the nonce words `(ctr, nonce)` the block's words are the subkey's
words plus the input words of the same index. -/
def Obligations.BlockIsHChaChaPlusFeedForward : Prop :=
  ∀ (kw : Vector Word 8) (ctr : Word) (nw : Vector Word 3),
    let sub := subkeyWords kw #v[ctr, nw[0], nw[1], nw[2]]
    let blk := le32s 16 (blockBytes kw ctr nw).toList
    (∀ i : Fin 4, blk[i.val] = sub[i.val] + constantWords[i]) ∧
    blk[12] = sub[4] + ctr ∧
    (∀ i : Fin 3, blk[13 + i.val] = sub[5 + i.val] + nw[i])

/-- R145: the reduced nonce is the words of four zero bytes followed by the last 8 bytes. -/
def Obligations.ReducedNonceBeginsWithFourZeroBytes : Prop :=
  ∀ xn : List Byte, xn.length = 24 →
    xnonceWords xn = le32s 3 ([0, 0, 0, 0] ++ slice xn 16 8) ∧
    xnonceWords xn =
      #v[0, le32 (byteAt xn 16) (byteAt xn 17) (byteAt xn 18) (byteAt xn 19),
        le32 (byteAt xn 20) (byteAt xn 21) (byteAt xn 22) (byteAt xn 23)]

/-- Derived from spec/00_scope.md section 5 (R11): `ser32` and `le32` are inverse to each other, and so are
`ser32s` and `le32s` for every number of words. -/
def Obligations.WordAndByteConversionsAreInverse : Prop :=
  (∀ b0 b1 b2 b3 : Byte, ser32 (le32 b0 b1 b2 b3) = [b0, b1, b2, b3]) ∧
  (∀ v : Word, le32 (wordByte v 0) (wordByte v 1) (wordByte v 2) (wordByte v 3) = v) ∧
  (∀ (n : Nat) (p : List Byte), p.length = 4 * n → ser32s (le32s n p) = p) ∧
  (∀ (n : Nat) (v : Vector Word n), le32s n (ser32s v) = v)

/-! ## INIT -/

/-- R157: the writes of a successful `INIT`, for both variants, in every state; everything else of the state
is unchanged but for what `respond` writes. -/
def Obligations.InitLoadsTheContext : Prop :=
  ∀ (ctr : Option Word) (key nonce : List Byte) (s : State), key.length = 32 →
    (nonce.length = 12 →
      exec (.init ctr key nonce) s = .next (respond .ok []
        { s with
          K := le32s 8 key, N := le32s 3 nonce, VAR := .classic, CTR := ctr.getD 0
          BUF := Vector.replicate 64 0, OFF := 64, ST := .ready })) ∧
    (nonce.length = 24 →
      exec (.init ctr key nonce) s = .next (respond .ok []
        { s with
          K := subkeyWords (le32s 8 key) (le32s 4 (slice nonce 0 16)), N := xnonceWords nonce
          VAR := .extended, CTR := ctr.getD 0
          BUF := Vector.replicate 64 0, OFF := 64, ST := .ready }))

/-- Derived from spec/42_hchacha.md R146: an Extended `INIT` leaves what a Classic one leaves with the
serialized subkey as key and the reduced nonce as nonce, but for the `VAR` bit. -/
def Obligations.ExtendedInitIsClassicInitWithTheSubkey : Prop :=
  ∀ (ctr : Option Word) (key xn : List Byte) (s : State), key.length = 32 → xn.length = 24 →
    ∃ t sk, exec (.hchacha key (slice xn 0 16)) s = .next (respond .ok sk s) ∧
      exec (.init ctr key xn) s = .next { t with VAR := .extended } ∧
      exec (.init ctr sk ([0, 0, 0, 0] ++ slice xn 16 8)) s = .next t

/-- R158: without a counter the context starts at 0; every 32-bit counter is accepted, and a context started
at 0xFFFFFFFF is `READY` and fails at its first non-empty `XORKS`. -/
def Obligations.InitialCounterIsTakenOrZero : Prop :=
  ∀ (ctr : Option Word) (key nonce : List Byte) (s : State),
    key.length = 32 → nonce.length = 12 ∨ nonce.length = 24 →
    ∃ t, exec (.init ctr key nonce) s = .next t ∧ t.ST = .ready ∧ t.ERR = .ok ∧
      (ctr = none → t.CTR = 0) ∧ (∀ c, ctr = some c → t.CTR = c) ∧
      (ctr = some 0xFFFFFFFF → ∀ data : List Byte, data ≠ [] →
        ∃ u, exec (.xorks data.length data) t = .next u ∧ u.ERR = .counterExhausted ∧
          u.rsp = t.rsp ++ [⟨0x04, true⟩])

/-- R214: a key field that is not 32 bytes long, whatever the nonce, ends each of the three commands that
take a key with `InvalidKeySize`, and nothing else happens. -/
def Obligations.WrongKeySizeIsRejected : Prop :=
  ∀ (ctr : Option Word) (key nonce : List Byte) (s : State), key.length ≠ 32 →
    exec (.init ctr key nonce) s = .next (respond .invalidKeySize [] s) ∧
    exec (.block ctr key nonce) s = .next (respond .invalidKeySize [] s) ∧
    exec (.hchacha key nonce) s = .next (respond .invalidKeySize [] s)

/-- R215: with a 32-byte key, a nonce length the command does not accept ends it with `InvalidNonceSize`, and
nothing else happens: `INIT` accepts 12 and 24, `BLOCK` 12, `HCHACHA` 16. -/
def Obligations.WrongNonceSizeIsRejected : Prop :=
  ∀ (ctr : Option Word) (key nonce : List Byte) (s : State), key.length = 32 →
    (nonce.length ≠ 12 → nonce.length ≠ 24 →
      exec (.init ctr key nonce) s = .next (respond .invalidNonceSize [] s)) ∧
    (nonce.length ≠ 12 → exec (.block ctr key nonce) s = .next (respond .invalidNonceSize [] s)) ∧
    (nonce.length ≠ 16 → exec (.hchacha key nonce) s = .next (respond .invalidNonceSize [] s))

/-! ## BLOCK, HCHACHA, ZEROIZE -/

/-- R125: `BLOCK` in full: its two checks in order, and the block of its operands as payload; in every state
the context is untouched. -/
def Obligations.BlockAnswersOneBlock : Prop :=
  ∀ (ctr : Option Word) (key nonce : List Byte) (s : State),
    exec (.block ctr key nonce) s = .next
      (if key.length ≠ 32 then respond .invalidKeySize [] s
       else if nonce.length ≠ 12 then respond .invalidNonceSize [] s
       else respond .ok (blockBytes (le32s 8 key) (ctr.getD 0) (le32s 3 nonce)).toList s)

/-- R143: `HCHACHA` in full: its two checks in order, and the serialized subkey as payload; in every state
the context is untouched. -/
def Obligations.HchachaAnswersTheSubkey : Prop :=
  ∀ (key nonce : List Byte) (s : State),
    exec (.hchacha key nonce) s = .next
      (if key.length ≠ 32 then respond .invalidKeySize [] s
       else if nonce.length ≠ 16 then respond .invalidNonceSize [] s
       else respond .ok (ser32s (subkeyWords (le32s 8 key) (le32s 4 nonce))) s)

/-- R196: `ZEROIZE` succeeds in every state and gives every element its reset value. -/
def Obligations.ZeroizeGivesResetValues : Prop :=
  ∀ s : State, exec .zeroize s =
    .next { State.reset with input := s.input, rsp := s.rsp ++ [⟨0x00, true⟩] }

/-- Derived from spec/10_state.md section 4 (R37): `BLOCK` and `HCHACHA` leave the context alone and answer
the same in every state, so they neither change nor reveal it. -/
def Obligations.StatelessCommandsRevealNothing : Prop :=
  ∀ i : Instr, (∃ ctr key nonce, i = .block ctr key nonce) ∨ (∃ key nonce, i = .hchacha key nonce) →
    ∃ rc payload, ∀ s : State, ∃ t, exec i s = .next t ∧ t.ERR = rc ∧
      t.rsp = s.rsp ++ packetBeats (resultByte rc :: payload) ∧
      t.K = s.K ∧ t.N = s.N ∧ t.CTR = s.CTR ∧ t.BUF = s.BUF ∧ t.OFF = s.OFF ∧ t.ST = s.ST ∧
      t.VAR = s.VAR ∧ t.input = s.input

/-! ## The keystream and XORKS -/

/-- R163: REFILL puts the block for the current counter in the buffer, sets the offset to 0 and increments
the counter, which does not wrap; of the rest it touches the transient state only. -/
def Obligations.RefillGeneratesOneBlock : Prop :=
  ∀ s : State, s.CTR ≠ 0xFFFFFFFF →
    (refill s).BUF = (blockFn s.K s.CTR s.N s).1 ∧ (refill s).OFF = 0 ∧
    (refill s).CTR.toNat = s.CTR.toNat + 1 ∧
    { refill s with
      BUF := s.BUF, OFF := s.OFF, CTR := s.CTR, W := s.W, S := s.S, RND := s.RND } = s

/-- R190: XORBYTE refills first if the buffer is empty; it combines its byte with the byte at `OFF`, puts 0
there, and moves `OFF` on by one; nothing else changes. -/
def Obligations.XorByteConsumesOneByte : Prop :=
  (∀ (x : Byte) (s : State), s.OFF.val = 64 → xorByte x s = xorByte x (refill s)) ∧
  (∀ (x : Byte) (s : State), s.OFF.val < 64 →
    (xorByte x s).1 = x ^^^ bufByte s.BUF s.OFF.val ∧
    (∀ i, bufByte (xorByte x s).2.BUF i = if i = s.OFF.val then 0 else bufByte s.BUF i) ∧
    (xorByte x s).2.OFF.val = s.OFF.val + 1 ∧
    { (xorByte x s).2 with BUF := s.BUF, OFF := s.OFF } = s)

/-- R186, R187, R188, R166: the ways `XORKS` ends without serving a byte, in the order of its checks; each
writes nothing but `ERR` (besides what every response clears). -/
def Obligations.XorksChecksInOrder : Prop :=
  ∀ (olen : Nat) (data : List Byte) (s : State),
    (s.ST = .uninit → exec (.xorks olen data) s = .next (respond .notReady [] s)) ∧
    (s.ST ≠ .uninit → olen ≠ data.length →
      exec (.xorks olen data) s = .next (respond .bufferLengthMismatch [] s)) ∧
    (s.ST = .exhausted → olen = data.length →
      exec (.xorks olen data) s = .next (respond .counterExhausted [] s)) ∧
    (s.ST = .ready → olen = data.length → data = [] →
      exec (.xorks olen data) s = .next (respond .ok [] s))

/-- Derived from spec/43_keystream.md R165: on a ready context a request whose lengths agree ends with
`CounterExhausted` exactly when a block it needs would take the counter past 32 bits, computed without
wrap-around; then nothing but `ST` and `ERR` is written. -/
def Obligations.ExhaustionIsDecidedUpFront : Prop :=
  ∀ (data : List Byte) (s : State), s.ST = .ready →
    (exhausts s data.length →
      exec (.xorks data.length data) s
        = .next (respond .counterExhausted [] { s with ST := .exhausted })) ∧
    (¬ exhausts s data.length → ∃ t, exec (.xorks data.length data) s = .next t ∧ t.ERR = .ok ∧ t.ST = .ready)

/-- Derived from spec/44_xor.md section 1 and spec/43_keystream.md section 2 (R59, R163, R165, R167, R185,
R189, R190): what a served `XORKS` leaves, in closed form, for every ready state. The output is the data
XORed with the buffered bytes and then with fresh blocks; `CTR` advances by the number of blocks, without
wrapping; the buffer holds the unconsumed rest with its consumed positions 0; everything else is kept. -/
def Obligations.XorksServesTheRequest : Prop :=
  ∀ (data : List Byte) (s : State), s.ST = .ready → ¬ exhausts s data.length →
    ∃ t, exec (.xorks data.length data) s = .next t ∧
      t.rsp = s.rsp ++ packetBeats (0x00 :: xorWith (requestByte s) data) ∧
      (data.length ≤ 64 - s.OFF.val →
        t.CTR = s.CTR ∧ t.OFF.val = s.OFF.val + data.length ∧
        ∀ i, bufByte t.BUF i =
          if s.OFF.val ≤ i ∧ i < s.OFF.val + data.length then 0 else bufByte s.BUF i) ∧
      (64 - s.OFF.val < data.length →
        t.CTR.toNat = s.CTR.toNat + freshBlocks s data.length ∧
        t.OFF.val = data.length - (64 - s.OFF.val) - 64 * (freshBlocks s data.length - 1) ∧
        ∀ i, bufByte t.BUF i =
          if i < t.OFF.val then 0 else bufByte (blockBytes s.K (t.CTR - 1) s.N) i) ∧
      Idle t ∧ t.ERR = .ok ∧ t.K = s.K ∧ t.N = s.N ∧ t.VAR = s.VAR ∧ t.ST = .ready ∧ t.input = s.input

/-- Derived from spec/43_keystream.md section 2 (R161, R162): a successful `INIT` of either variant leaves
the context at position 0 of the keystream of its key words, nonce words and counter. -/
def Obligations.InitStartsTheKeystream : Prop :=
  ∀ (ctr : Option Word) (key nonce : List Byte) (s : State),
    key.length = 32 → nonce.length = 12 ∨ nonce.length = 24 →
    ∃ t, exec (.init ctr key nonce) s = .next t ∧ AtPosition t t.K t.N (ctr.getD 0) 0 ∧
      (nonce.length = 12 → t.K = le32s 8 key ∧ t.N = le32s 3 nonce) ∧
      (nonce.length = 24 →
        t.K = subkeyWords (le32s 8 key) (le32s 4 (slice nonce 0 16)) ∧ t.N = xnonceWords nonce)

/-- Headline, derived from spec/43_keystream.md section 2 (R161, R162, R168): the generator hands out the
keystream `B_0 ++ B_1 ++ ...` of its context in order, each byte once. From position `q`, a request of `n`
bytes that ends within the `64 * (0xFFFFFFFF - c0)` bytes of the keystream is XORed with bytes `q .. q+n-1`
and leaves position `q + n`; one that does not is answered `CounterExhausted` and outputs nothing. -/
def Obligations.KeystreamIsHandedOutInOrder : Prop :=
  ∀ (kw : Vector Word 8) (nw : Vector Word 3) (c0 : Word) (q : Nat) (data : List Byte) (s : State),
    AtPosition s kw nw c0 q →
    (q + data.length ≤ 64 * (0xFFFFFFFF - c0.toNat) →
      ∃ t, exec (.xorks data.length data) s = .next t ∧
        t.rsp = s.rsp ++ packetBeats (0x00 :: xorWith (fun j => streamByte kw nw c0 (q + j)) data) ∧
        AtPosition t kw nw c0 (q + data.length)) ∧
    (data ≠ [] → 64 * (0xFFFFFFFF - c0.toNat) < q + data.length →
      exec (.xorks data.length data) s
        = .next (respond .counterExhausted [] { s with ST := .exhausted }))

/-- Derived from spec/44_xor.md section 2 (R192): two calls give the output of one call on the
joined data, and end in the same state, whenever the one call succeeds. -/
def Obligations.ChunkingIsInvisible : Prop :=
  ∀ (a b : List Byte) (s : State), s.ST = .ready → ¬ exhausts s (a ++ b).length →
    ∃ t t1 t2 x y,
      exec (.xorks (a ++ b).length (a ++ b)) s = .next t ∧
      exec (.xorks a.length a) s = .next t1 ∧ exec (.xorks b.length b) t1 = .next t2 ∧
      t1.rsp = s.rsp ++ packetBeats (0x00 :: x) ∧ t2.rsp = t1.rsp ++ packetBeats (0x00 :: y) ∧
      t.rsp = s.rsp ++ packetBeats (0x00 :: (x ++ y)) ∧
      { t2 with rsp := [] } = { t with rsp := [] }

/-- Derived from spec/44_xor.md section 2 (R191): the transform applied twice, with a freshly
re-initialized identical context, recovers the data; for both variants, every counter and every message the
keystream is long enough for. -/
def Obligations.TransformIsSelfInverse : Prop :=
  ∀ (ctr : Option Word) (key nonce data : List Byte) (s : State),
    key.length = 32 → nonce.length = 12 ∨ nonce.length = 24 →
    data.length ≤ 64 * (0xFFFFFFFF - (ctr.getD 0).toNat) →
    ∃ t1 t2 t3 t4 x,
      exec (.init ctr key nonce) s = .next t1 ∧ exec (.xorks data.length data) t1 = .next t2 ∧
      t2.rsp = t1.rsp ++ packetBeats (0x00 :: x) ∧
      exec (.init ctr key nonce) t2 = .next t3 ∧ exec (.xorks x.length x) t3 = .next t4 ∧
      t4.rsp = t3.rsp ++ packetBeats (0x00 :: data)

/-- Derived from spec/44_xor.md section 2 (R195): two requests of the same lengths in the same state leave
the same state but for the response, whatever the data. -/
def Obligations.StateDoesNotDependOnTheData : Prop :=
  ∀ (olen : Nat) (a b : List Byte) (s : State), a.length = b.length →
    ∃ t u, exec (.xorks olen a) s = .next t ∧ exec (.xorks olen b) s = .next u ∧
      { t with rsp := [] } = { u with rsp := [] }

/-! ## Rules about the whole machine -/

/-- R85: the response to any packet: the result byte (code in bits 2..0, bits 7..3 zero) and then the
payload, which is empty unless the code is 0, and is then the command's own result. -/
def Obligations.ResponseIsCodeThenPayload : Prop :=
  ∀ (s : State) (p : List Byte) (rest : List HostInput), s.BUSY = false → Offered s p rest →
    ∃ t rc payload, step s = .next t ∧ t.rsp = s.rsp ++ packetBeats (rc :: payload) ∧
      rc.extractLsb' 0 3 = resultNumber t.ERR ∧ rc.extractLsb' 3 5 = 0 ∧
      (rc ≠ 0 → payload = []) ∧
      (rc = 0 → ∃ i, decode p = .ok i ∧ payload = okPayload i s)

/-- R213: what a packet answered with an error writes: `ERR`, and `ST` when exhaustion is detected; nothing
else, and the response is the code alone. The codes are those of the table. -/
def Obligations.FailingCommandWritesOnlyErr : Prop :=
  (∀ (s t : State) (p : List Byte) (rest : List HostInput),
    Idle s → Offered s p rest → step s = .next t → t.ERR ≠ .ok →
    t = { s with
      input := rest
      ERR := t.ERR
      ST := if t.ERR = .counterExhausted then .exhausted else s.ST
      rsp := s.rsp ++ [⟨resultByte t.ERR, true⟩] } ∧
    (t.ERR = .counterExhausted → s.ST ≠ .uninit)) ∧
  resultNumber .invalidKeySize = 1 ∧ resultNumber .invalidNonceSize = 2 ∧
  resultNumber .bufferLengthMismatch = 3 ∧ resultNumber .counterExhausted = 4 ∧
  resultNumber .illegalCommand = 5 ∧ resultNumber .notReady = 6

/-- R220: `ST` after a reset, and after any packet row by row of the transition table. -/
def Obligations.LifecycleFollowsTheTable : Prop :=
  (∀ (s : State) (rest : List HostInput), nextTransaction s.input = .reset rest →
    ∃ t, step s = .next t ∧ t.ST = .uninit) ∧
  (∀ (s : State) (p : List Byte) (rest : List HostInput), s.BUSY = false → Offered s p rest →
    ∃ t, step s = .next t ∧
      t.ST = lifecycleAfter (match decode p with | .ok i => some i | .error _ => none) s)

/-- Derived from spec/10_state.md section 2 (R21, R22): a step that changes the key or the nonce words was a
reset, or took an `INIT` or a `ZEROIZE`. -/
def Obligations.OnlyInitAndZeroizeWriteTheKey : Prop :=
  ∀ s t : State, step s = .next t → t.K ≠ s.K ∨ t.N ≠ s.N →
    (∃ rest, nextTransaction s.input = .reset rest) ∨
    ∃ p rest, nextTransaction s.input = .packet p rest ∧
      (decode p = .ok .zeroize ∨ ∃ ctr key nonce, decode p = .ok (.init ctr key nonce))

/-- Derived from spec/10_state.md section 2 (R23) and spec/43_keystream.md section 2 (R168): no command but
`INIT` and `ZEROIZE` takes the counter back. -/
def Obligations.CounterNeverGoesBack : Prop :=
  ∀ (i : Instr) (s : State), i ≠ .zeroize → (∀ ctr key nonce, i ≠ .init ctr key nonce) →
    ∃ t, exec i s = .next t ∧ s.CTR.toNat ≤ t.CTR.toNat

/-- Derived from spec/10_state.md sections 2 and 4 (R26, R27, R36): the six status pins show `ST`, `VAR`, `ERR`,
`BUSY`, `CTR` and `OFF`, and the rest of the state does not reach them; `ST` and `VAR` are shown by the numbers
R26 and R27 give them. -/
def Obligations.StatusPinsShowNoSecret : Prop :=
  (∀ (s : State) (kw : Vector Word 8) (nw : Vector Word 3) (b : Vector Byte 64) (w v : Vector Word 16) (r : Fin 21),
    statusPins { s with K := kw, N := nw, BUF := b, W := w, S := v, RND := r } =
      ⟨lifecycleCode s.ST, variantCode s.VAR, resultNumber s.ERR, BitVec.ofBool s.BUSY, s.CTR,
        BitVec.ofNat 7 s.OFF.val⟩ ∧
    (statusPins s).off.toNat = s.OFF.val) ∧
  lifecycleCode .uninit = 0 ∧ lifecycleCode .ready = 1 ∧ lifecycleCode .exhausted = 2 ∧
  variantCode .classic = 0 ∧ variantCode .extended = 1

/-- Derived from spec/10_state.md section 5 (R38): the reset state meets the invariants between commands. -/
def Obligations.ResetMeetsTheInvariants : Prop := Inv State.reset

/-- Headline, derived from spec/10_state.md section 5 (R38): every step keeps the invariants between
commands, from every state that meets them. -/
def Obligations.StepKeepsTheInvariants : Prop :=
  ∀ s t : State, Inv s → step s = .next t → Inv t
end

