-- ==== Sys2Proof/Laws/Bytes.lean ====
section
/-! SUPPORT. The byte and word conversions of `Machine/Bytes.lean`: each is the inverse of its other
direction, and the lengths of what they produce. -/

namespace Sys2Proof.Machine

theorem le32_toNat (b0 b1 b2 b3 : Byte) :
    (le32 b0 b1 b2 b3).toNat
      = b0.toNat + 256 * b1.toNat + 65536 * b2.toNat + 16777216 * b3.toNat := by
  simp only [le32, BitVec.toNat_ofNat]
  omega

theorem wordByte_toNat (v : Word) (k : Nat) : (wordByte v k).toNat = v.toNat / 2 ^ (8 * k) % 256 := by
  simp [wordByte, Nat.shiftRight_eq_div_pow]

@[simp] theorem wordByte_le32_zero (b0 b1 b2 b3 : Byte) : wordByte (le32 b0 b1 b2 b3) 0 = b0 := by
  apply BitVec.eq_of_toNat_eq
  rw [wordByte_toNat, le32_toNat]
  omega

@[simp] theorem wordByte_le32_one (b0 b1 b2 b3 : Byte) : wordByte (le32 b0 b1 b2 b3) 1 = b1 := by
  apply BitVec.eq_of_toNat_eq
  rw [wordByte_toNat, le32_toNat]
  omega

@[simp] theorem wordByte_le32_two (b0 b1 b2 b3 : Byte) : wordByte (le32 b0 b1 b2 b3) 2 = b2 := by
  apply BitVec.eq_of_toNat_eq
  rw [wordByte_toNat, le32_toNat]
  omega

@[simp] theorem wordByte_le32_three (b0 b1 b2 b3 : Byte) : wordByte (le32 b0 b1 b2 b3) 3 = b3 := by
  apply BitVec.eq_of_toNat_eq
  rw [wordByte_toNat, le32_toNat]
  omega

@[simp] theorem le32_wordByte (v : Word) :
    le32 (wordByte v 0) (wordByte v 1) (wordByte v 2) (wordByte v 3) = v := by
  apply BitVec.eq_of_toNat_eq
  rw [le32_toNat]
  simp only [wordByte_toNat]
  omega

@[simp] theorem length_ser32 (v : Word) : (ser32 v).length = 4 := rfl

@[simp] theorem length_serNat (n v : Nat) : (serNat n v).length = n := by
  induction n generalizing v with
  | zero => rfl
  | succ n ih => simp [serNat, ih]

@[simp] theorem leNat_serNat (n v : Nat) (h : v < 256 ^ n) : leNat (serNat n v) = v := by
  induction n generalizing v with
  | zero => simp only [Nat.pow_zero] at h; simp only [serNat, leNat]; omega
  | succ n ih =>
    have hv : v / 256 < 256 ^ n := Nat.div_lt_of_lt_mul (by rw [Nat.pow_succ] at h; omega)
    simp only [serNat, leNat, ih _ hv, BitVec.toNat_ofNat]
    omega

theorem serNat_leNat (p : List Byte) : serNat p.length (leNat p) = p := by
  induction p with
  | nil => rfl
  | cons b rest ih =>
    have hb : b.toNat < 256 := b.isLt
    simp only [List.length_cons, serNat, leNat]
    rw [show (b.toNat + 256 * leNat rest) / 256 = leNat rest by omega, ih]
    congr 1
    apply BitVec.eq_of_toNat_eq
    simp only [BitVec.toNat_ofNat]
    omega

theorem leNat_lt (p : List Byte) : leNat p < 256 ^ p.length := by
  induction p with
  | nil => simp [leNat]
  | cons b rest ih =>
    have hb : b.toNat < 256 := b.isLt
    simp only [List.length_cons, leNat, Nat.pow_succ]
    omega

theorem byteAt_append_left (a b : List Byte) (i : Nat) (h : i < a.length) :
    byteAt (a ++ b) i = byteAt a i := by
  simp [byteAt, List.getElem?_append, h]

theorem byteAt_append_right (a b : List Byte) (i : Nat) (h : a.length ≤ i) :
    byteAt (a ++ b) i = byteAt b (i - a.length) := by
  simp [byteAt, List.getElem?_append, Nat.not_lt.mpr h]

theorem byteAt_toList {n : Nat} (v : Vector Byte n) (i : Nat) (h : i < n) : byteAt v.toList i = v[i] := by
  simp [byteAt, h]

@[simp] theorem getElem_le32s (n : Nat) (p : List Byte) (i : Nat) (h : i < n) :
    (le32s n p)[i] =
      le32 (byteAt p (4 * i)) (byteAt p (4 * i + 1)) (byteAt p (4 * i + 2)) (byteAt p (4 * i + 3)) := by
  simp [le32s]

theorem byteAt_flatMap_ser32 (l : List Word) (i k : Nat) (hi : i < l.length) (hk : k < 4) :
    byteAt (l.flatMap ser32) (4 * i + k) = wordByte l[i] k := by
  induction l generalizing i with
  | nil => simp at hi
  | cons v rest ih =>
    rw [List.flatMap_cons]
    cases i with
    | zero =>
      rw [byteAt_append_left _ _ _ (by rw [length_ser32]; omega)]
      have hk' : k = 0 ∨ k = 1 ∨ k = 2 ∨ k = 3 := by omega
      rcases hk' with rfl | rfl | rfl | rfl <;> rfl
    | succ i =>
      rw [byteAt_append_right _ _ _ (by rw [length_ser32]; omega), length_ser32,
        show 4 * (i + 1) + k - 4 = 4 * i + k by omega]
      simpa using ih i (by simpa using hi)

/-- Byte `4i + k` of serialized words is byte `k` of word `i` (spec/20_memory.md R54). -/
theorem byteAt_ser32s {n : Nat} (v : Vector Word n) (i k : Nat) (hi : i < n) (hk : k < 4) :
    byteAt (ser32s v) (4 * i + k) = wordByte v[i] k := by
  rw [ser32s, byteAt_flatMap_ser32 _ _ _ (by simpa using hi) hk]
  simp

@[simp] theorem length_ser32s {n : Nat} (v : Vector Word n) : (ser32s v).length = 4 * n := by
  have h : ∀ l : List Word, (l.flatMap ser32).length = 4 * l.length := by
    intro l
    induction l with
    | nil => rfl
    | cons w rest ih => simp [ih]; omega
  simp [ser32s, h]

/-- Reading serialized words back gives the words. -/
theorem le32s_ser32s {n : Nat} (v : Vector Word n) : le32s n (ser32s v) = v := by
  ext i hi
  rw [getElem_le32s]
  have h0 := byteAt_ser32s v i 0 hi (by omega)
  rw [Nat.add_zero] at h0
  rw [h0, byteAt_ser32s v i 1 hi (by omega), byteAt_ser32s v i 2 hi (by omega),
    byteAt_ser32s v i 3 hi (by omega), le32_wordByte]

@[simp] theorem length_slice (p : List Byte) (i n : Nat) : (slice p i n).length = min n (p.length - i) := by
  simp [slice]

theorem slice_append_left (a b : List Byte) (i n : Nat) (h : i + n ≤ a.length) :
    slice (a ++ b) i n = slice a i n := by
  simp only [slice]
  rw [List.drop_append_of_le_length (by omega), List.take_append_of_le_length (by simp; omega)]

theorem slice_append_exact (a b c : List Byte) : slice (a ++ (b ++ c)) a.length b.length = b := by
  simp [slice]

end Sys2Proof.Machine
end

