-- ==== Sys2Proof/Laws/State.lean ====
section
/-! SUPPORT. For each operation that updates the state, what it leaves in each field: one lemma per field,
true by definition, so that no later proof unfolds a record update. -/

namespace Sys2Proof.Machine

variable (s : State)

@[simp] theorem respond_K (rc : ResultCode) (payload : List Byte) : (respond rc payload s).K = s.K := rfl
@[simp] theorem respond_N (rc : ResultCode) (payload : List Byte) : (respond rc payload s).N = s.N := rfl
@[simp] theorem respond_CTR (rc : ResultCode) (payload : List Byte) : (respond rc payload s).CTR = s.CTR := rfl
@[simp] theorem respond_BUF (rc : ResultCode) (payload : List Byte) : (respond rc payload s).BUF = s.BUF := rfl
@[simp] theorem respond_OFF (rc : ResultCode) (payload : List Byte) : (respond rc payload s).OFF = s.OFF := rfl
@[simp] theorem respond_ST (rc : ResultCode) (payload : List Byte) : (respond rc payload s).ST = s.ST := rfl
@[simp] theorem respond_VAR (rc : ResultCode) (payload : List Byte) : (respond rc payload s).VAR = s.VAR := rfl
@[simp] theorem respond_ERR (rc : ResultCode) (payload : List Byte) : (respond rc payload s).ERR = rc := rfl
@[simp] theorem respond_W (rc : ResultCode) (payload : List Byte) : (respond rc payload s).W = Vector.replicate 16 0 := rfl
@[simp] theorem respond_S (rc : ResultCode) (payload : List Byte) : (respond rc payload s).S = Vector.replicate 16 0 := rfl
@[simp] theorem respond_RND (rc : ResultCode) (payload : List Byte) : (respond rc payload s).RND = 0 := rfl
@[simp] theorem respond_BUSY (rc : ResultCode) (payload : List Byte) : (respond rc payload s).BUSY = false := rfl
@[simp] theorem respond_input (rc : ResultCode) (payload : List Byte) : (respond rc payload s).input = s.input := rfl
@[simp] theorem respond_rsp (rc : ResultCode) (payload : List Byte) : (respond rc payload s).rsp = s.rsp ++ packetBeats (resultByte rc :: payload) := rfl

@[simp] theorem acceptPacket_K (rest : List HostInput) : (acceptPacket rest s).K = s.K := rfl
@[simp] theorem acceptPacket_N (rest : List HostInput) : (acceptPacket rest s).N = s.N := rfl
@[simp] theorem acceptPacket_CTR (rest : List HostInput) : (acceptPacket rest s).CTR = s.CTR := rfl
@[simp] theorem acceptPacket_BUF (rest : List HostInput) : (acceptPacket rest s).BUF = s.BUF := rfl
@[simp] theorem acceptPacket_OFF (rest : List HostInput) : (acceptPacket rest s).OFF = s.OFF := rfl
@[simp] theorem acceptPacket_ST (rest : List HostInput) : (acceptPacket rest s).ST = s.ST := rfl
@[simp] theorem acceptPacket_VAR (rest : List HostInput) : (acceptPacket rest s).VAR = s.VAR := rfl
@[simp] theorem acceptPacket_ERR (rest : List HostInput) : (acceptPacket rest s).ERR = s.ERR := rfl
@[simp] theorem acceptPacket_W (rest : List HostInput) : (acceptPacket rest s).W = s.W := rfl
@[simp] theorem acceptPacket_S (rest : List HostInput) : (acceptPacket rest s).S = s.S := rfl
@[simp] theorem acceptPacket_RND (rest : List HostInput) : (acceptPacket rest s).RND = s.RND := rfl
@[simp] theorem acceptPacket_BUSY (rest : List HostInput) : (acceptPacket rest s).BUSY = true := rfl
@[simp] theorem acceptPacket_input (rest : List HostInput) : (acceptPacket rest s).input = rest := rfl
@[simp] theorem acceptPacket_rsp (rest : List HostInput) : (acceptPacket rest s).rsp = s.rsp := rfl

@[simp] theorem resetEvent_K (rest : List HostInput) : (resetEvent rest s).K = Vector.replicate 8 0 := rfl
@[simp] theorem resetEvent_N (rest : List HostInput) : (resetEvent rest s).N = Vector.replicate 3 0 := rfl
@[simp] theorem resetEvent_CTR (rest : List HostInput) : (resetEvent rest s).CTR = 0 := rfl
@[simp] theorem resetEvent_BUF (rest : List HostInput) : (resetEvent rest s).BUF = Vector.replicate 64 0 := rfl
@[simp] theorem resetEvent_OFF (rest : List HostInput) : (resetEvent rest s).OFF = 64 := rfl
@[simp] theorem resetEvent_ST (rest : List HostInput) : (resetEvent rest s).ST = .uninit := rfl
@[simp] theorem resetEvent_VAR (rest : List HostInput) : (resetEvent rest s).VAR = .classic := rfl
@[simp] theorem resetEvent_ERR (rest : List HostInput) : (resetEvent rest s).ERR = .ok := rfl
@[simp] theorem resetEvent_W (rest : List HostInput) : (resetEvent rest s).W = Vector.replicate 16 0 := rfl
@[simp] theorem resetEvent_S (rest : List HostInput) : (resetEvent rest s).S = Vector.replicate 16 0 := rfl
@[simp] theorem resetEvent_RND (rest : List HostInput) : (resetEvent rest s).RND = 0 := rfl
@[simp] theorem resetEvent_BUSY (rest : List HostInput) : (resetEvent rest s).BUSY = false := rfl
@[simp] theorem resetEvent_input (rest : List HostInput) : (resetEvent rest s).input = rest := rfl
@[simp] theorem resetEvent_rsp (rest : List HostInput) : (resetEvent rest s).rsp = s.rsp := rfl

@[simp] theorem sendPacket_K (p : List Byte) : (sendPacket p s).K = s.K := rfl
@[simp] theorem sendPacket_N (p : List Byte) : (sendPacket p s).N = s.N := rfl
@[simp] theorem sendPacket_CTR (p : List Byte) : (sendPacket p s).CTR = s.CTR := rfl
@[simp] theorem sendPacket_BUF (p : List Byte) : (sendPacket p s).BUF = s.BUF := rfl
@[simp] theorem sendPacket_OFF (p : List Byte) : (sendPacket p s).OFF = s.OFF := rfl
@[simp] theorem sendPacket_ST (p : List Byte) : (sendPacket p s).ST = s.ST := rfl
@[simp] theorem sendPacket_VAR (p : List Byte) : (sendPacket p s).VAR = s.VAR := rfl
@[simp] theorem sendPacket_ERR (p : List Byte) : (sendPacket p s).ERR = s.ERR := rfl
@[simp] theorem sendPacket_W (p : List Byte) : (sendPacket p s).W = s.W := rfl
@[simp] theorem sendPacket_S (p : List Byte) : (sendPacket p s).S = s.S := rfl
@[simp] theorem sendPacket_RND (p : List Byte) : (sendPacket p s).RND = s.RND := rfl
@[simp] theorem sendPacket_BUSY (p : List Byte) : (sendPacket p s).BUSY = s.BUSY := rfl
@[simp] theorem sendPacket_input (p : List Byte) : (sendPacket p s).input = (packetBeats p).map HostInput.beat ++ s.input := rfl
@[simp] theorem sendPacket_rsp (p : List Byte) : (sendPacket p s).rsp = s.rsp := rfl

@[simp] theorem loadContext_K (kw : Vector Word 8) (nw : Vector Word 3) (v : Variant) (c : Word) : (loadContext kw nw v c s).K = kw := rfl
@[simp] theorem loadContext_N (kw : Vector Word 8) (nw : Vector Word 3) (v : Variant) (c : Word) : (loadContext kw nw v c s).N = nw := rfl
@[simp] theorem loadContext_CTR (kw : Vector Word 8) (nw : Vector Word 3) (v : Variant) (c : Word) : (loadContext kw nw v c s).CTR = c := rfl
@[simp] theorem loadContext_BUF (kw : Vector Word 8) (nw : Vector Word 3) (v : Variant) (c : Word) : (loadContext kw nw v c s).BUF = Vector.replicate 64 0 := rfl
@[simp] theorem loadContext_OFF (kw : Vector Word 8) (nw : Vector Word 3) (v : Variant) (c : Word) : (loadContext kw nw v c s).OFF = 64 := rfl
@[simp] theorem loadContext_ST (kw : Vector Word 8) (nw : Vector Word 3) (v : Variant) (c : Word) : (loadContext kw nw v c s).ST = .ready := rfl
@[simp] theorem loadContext_VAR (kw : Vector Word 8) (nw : Vector Word 3) (v : Variant) (c : Word) : (loadContext kw nw v c s).VAR = v := rfl
@[simp] theorem loadContext_ERR (kw : Vector Word 8) (nw : Vector Word 3) (v : Variant) (c : Word) : (loadContext kw nw v c s).ERR = s.ERR := rfl
@[simp] theorem loadContext_W (kw : Vector Word 8) (nw : Vector Word 3) (v : Variant) (c : Word) : (loadContext kw nw v c s).W = s.W := rfl
@[simp] theorem loadContext_S (kw : Vector Word 8) (nw : Vector Word 3) (v : Variant) (c : Word) : (loadContext kw nw v c s).S = s.S := rfl
@[simp] theorem loadContext_RND (kw : Vector Word 8) (nw : Vector Word 3) (v : Variant) (c : Word) : (loadContext kw nw v c s).RND = s.RND := rfl
@[simp] theorem loadContext_BUSY (kw : Vector Word 8) (nw : Vector Word 3) (v : Variant) (c : Word) : (loadContext kw nw v c s).BUSY = s.BUSY := rfl
@[simp] theorem loadContext_input (kw : Vector Word 8) (nw : Vector Word 3) (v : Variant) (c : Word) : (loadContext kw nw v c s).input = s.input := rfl
@[simp] theorem loadContext_rsp (kw : Vector Word 8) (nw : Vector Word 3) (v : Variant) (c : Word) : (loadContext kw nw v c s).rsp = s.rsp := rfl

@[simp] theorem clearContext_K : (clearContext s).K = Vector.replicate 8 0 := rfl
@[simp] theorem clearContext_N : (clearContext s).N = Vector.replicate 3 0 := rfl
@[simp] theorem clearContext_CTR : (clearContext s).CTR = 0 := rfl
@[simp] theorem clearContext_BUF : (clearContext s).BUF = Vector.replicate 64 0 := rfl
@[simp] theorem clearContext_OFF : (clearContext s).OFF = 64 := rfl
@[simp] theorem clearContext_ST : (clearContext s).ST = .uninit := rfl
@[simp] theorem clearContext_VAR : (clearContext s).VAR = .classic := rfl
@[simp] theorem clearContext_ERR : (clearContext s).ERR = s.ERR := rfl
@[simp] theorem clearContext_W : (clearContext s).W = Vector.replicate 16 0 := rfl
@[simp] theorem clearContext_S : (clearContext s).S = Vector.replicate 16 0 := rfl
@[simp] theorem clearContext_RND : (clearContext s).RND = 0 := rfl
@[simp] theorem clearContext_BUSY : (clearContext s).BUSY = s.BUSY := rfl
@[simp] theorem clearContext_input : (clearContext s).input = s.input := rfl
@[simp] theorem clearContext_rsp : (clearContext s).rsp = s.rsp := rfl

@[simp] theorem initState_K (kw : Vector Word 8) (c : Word) (nw : Vector Word 3) : (initState kw c nw s).K = s.K := rfl
@[simp] theorem initState_N (kw : Vector Word 8) (c : Word) (nw : Vector Word 3) : (initState kw c nw s).N = s.N := rfl
@[simp] theorem initState_CTR (kw : Vector Word 8) (c : Word) (nw : Vector Word 3) : (initState kw c nw s).CTR = s.CTR := rfl
@[simp] theorem initState_BUF (kw : Vector Word 8) (c : Word) (nw : Vector Word 3) : (initState kw c nw s).BUF = s.BUF := rfl
@[simp] theorem initState_OFF (kw : Vector Word 8) (c : Word) (nw : Vector Word 3) : (initState kw c nw s).OFF = s.OFF := rfl
@[simp] theorem initState_ST (kw : Vector Word 8) (c : Word) (nw : Vector Word 3) : (initState kw c nw s).ST = s.ST := rfl
@[simp] theorem initState_VAR (kw : Vector Word 8) (c : Word) (nw : Vector Word 3) : (initState kw c nw s).VAR = s.VAR := rfl
@[simp] theorem initState_ERR (kw : Vector Word 8) (c : Word) (nw : Vector Word 3) : (initState kw c nw s).ERR = s.ERR := rfl
@[simp] theorem initState_W (kw : Vector Word 8) (c : Word) (nw : Vector Word 3) : (initState kw c nw s).W = initStateWords kw c nw := rfl
@[simp] theorem initState_S (kw : Vector Word 8) (c : Word) (nw : Vector Word 3) : (initState kw c nw s).S = s.S := rfl
@[simp] theorem initState_RND (kw : Vector Word 8) (c : Word) (nw : Vector Word 3) : (initState kw c nw s).RND = s.RND := rfl
@[simp] theorem initState_BUSY (kw : Vector Word 8) (c : Word) (nw : Vector Word 3) : (initState kw c nw s).BUSY = s.BUSY := rfl
@[simp] theorem initState_input (kw : Vector Word 8) (c : Word) (nw : Vector Word 3) : (initState kw c nw s).input = s.input := rfl
@[simp] theorem initState_rsp (kw : Vector Word 8) (c : Word) (nw : Vector Word 3) : (initState kw c nw s).rsp = s.rsp := rfl

@[simp] theorem hinit_K (kw : Vector Word 8) (hw : Vector Word 4) : (hinit kw hw s).K = s.K := rfl
@[simp] theorem hinit_N (kw : Vector Word 8) (hw : Vector Word 4) : (hinit kw hw s).N = s.N := rfl
@[simp] theorem hinit_CTR (kw : Vector Word 8) (hw : Vector Word 4) : (hinit kw hw s).CTR = s.CTR := rfl
@[simp] theorem hinit_BUF (kw : Vector Word 8) (hw : Vector Word 4) : (hinit kw hw s).BUF = s.BUF := rfl
@[simp] theorem hinit_OFF (kw : Vector Word 8) (hw : Vector Word 4) : (hinit kw hw s).OFF = s.OFF := rfl
@[simp] theorem hinit_ST (kw : Vector Word 8) (hw : Vector Word 4) : (hinit kw hw s).ST = s.ST := rfl
@[simp] theorem hinit_VAR (kw : Vector Word 8) (hw : Vector Word 4) : (hinit kw hw s).VAR = s.VAR := rfl
@[simp] theorem hinit_ERR (kw : Vector Word 8) (hw : Vector Word 4) : (hinit kw hw s).ERR = s.ERR := rfl
@[simp] theorem hinit_W (kw : Vector Word 8) (hw : Vector Word 4) : (hinit kw hw s).W = hinitWords kw hw := rfl
@[simp] theorem hinit_S (kw : Vector Word 8) (hw : Vector Word 4) : (hinit kw hw s).S = s.S := rfl
@[simp] theorem hinit_RND (kw : Vector Word 8) (hw : Vector Word 4) : (hinit kw hw s).RND = s.RND := rfl
@[simp] theorem hinit_BUSY (kw : Vector Word 8) (hw : Vector Word 4) : (hinit kw hw s).BUSY = s.BUSY := rfl
@[simp] theorem hinit_input (kw : Vector Word 8) (hw : Vector Word 4) : (hinit kw hw s).input = s.input := rfl
@[simp] theorem hinit_rsp (kw : Vector Word 8) (hw : Vector Word 4) : (hinit kw hw s).rsp = s.rsp := rfl

@[simp] theorem save_K : (save s).K = s.K := rfl
@[simp] theorem save_N : (save s).N = s.N := rfl
@[simp] theorem save_CTR : (save s).CTR = s.CTR := rfl
@[simp] theorem save_BUF : (save s).BUF = s.BUF := rfl
@[simp] theorem save_OFF : (save s).OFF = s.OFF := rfl
@[simp] theorem save_ST : (save s).ST = s.ST := rfl
@[simp] theorem save_VAR : (save s).VAR = s.VAR := rfl
@[simp] theorem save_ERR : (save s).ERR = s.ERR := rfl
@[simp] theorem save_W : (save s).W = s.W := rfl
@[simp] theorem save_S : (save s).S = s.W := rfl
@[simp] theorem save_RND : (save s).RND = s.RND := rfl
@[simp] theorem save_BUSY : (save s).BUSY = s.BUSY := rfl
@[simp] theorem save_input : (save s).input = s.input := rfl
@[simp] theorem save_rsp : (save s).rsp = s.rsp := rfl

@[simp] theorem feedForward_K : (feedForward s).K = s.K := by simp only [feedForward]
@[simp] theorem feedForward_N : (feedForward s).N = s.N := by simp only [feedForward]
@[simp] theorem feedForward_CTR : (feedForward s).CTR = s.CTR := by simp only [feedForward]
@[simp] theorem feedForward_BUF : (feedForward s).BUF = s.BUF := by simp only [feedForward]
@[simp] theorem feedForward_OFF : (feedForward s).OFF = s.OFF := by simp only [feedForward]
@[simp] theorem feedForward_ST : (feedForward s).ST = s.ST := by simp only [feedForward]
@[simp] theorem feedForward_VAR : (feedForward s).VAR = s.VAR := by simp only [feedForward]
@[simp] theorem feedForward_ERR : (feedForward s).ERR = s.ERR := by simp only [feedForward]
@[simp] theorem feedForward_W : (feedForward s).W = feedForwardWords s.W s.S := by simp only [feedForward]
@[simp] theorem feedForward_S : (feedForward s).S = s.S := by simp only [feedForward]
@[simp] theorem feedForward_RND : (feedForward s).RND = s.RND := by simp only [feedForward]
@[simp] theorem feedForward_BUSY : (feedForward s).BUSY = s.BUSY := by simp only [feedForward]
@[simp] theorem feedForward_input : (feedForward s).input = s.input := by simp only [feedForward]
@[simp] theorem feedForward_rsp : (feedForward s).rsp = s.rsp := by simp only [feedForward]

@[simp] theorem raise_eq (e : ResultCode) : raise e s = respond e [] s := rfl

@[simp] theorem illegalCommand_eq : illegalCommand s = respond .illegalCommand [] s := rfl

end Sys2Proof.Machine
end

