-- ==== Sys2Proof/Laws/Permutation.lean ====
section
/-! SUPPORT. What the micro-operations on `W`, `S` and `RND` do, said once: `PERM`, `BLOCKFN` and
`HCHACHA20` as one record update each, in terms of the functions on words. -/

namespace Sys2Proof.Machine

@[simp] theorem repeatTimes_zero {α : Type} (f : α → α) (x : α) : repeatTimes f 0 x = x := rfl

theorem repeatTimes_succ {α : Type} (f : α → α) (n : Nat) (x : α) :
    repeatTimes f (n + 1) x = repeatTimes f n (f x) := rfl

theorem permDoubleRound_eq (s : State) :
    permDoubleRound s = { s with W := doubleRound s.W, RND := s.RND + 1 + 1 } := rfl

theorem repeatTimes_permDoubleRound (n : Nat) (s : State) :
    repeatTimes permDoubleRound n s =
      { s with W := repeatTimes doubleRound n s.W, RND := repeatTimes (fun r => r + 1 + 1) n s.RND } := by
  induction n generalizing s with
  | zero => rfl
  | succ n ih => simp only [repeatTimes_succ, ih, permDoubleRound_eq]

/-- `PERM` as one update: twenty rounds counted, and the permuted words. -/
theorem perm_eq (s : State) : perm s = { s with W := permWords s.W, RND := 20 } := by
  have h : repeatTimes (fun r : Fin 21 => r + 1 + 1) Config.doubleRounds 0 = 20 := by decide
  simp only [perm, repeatTimes_permDoubleRound, permWords, h]

/-- `BLOCKFN` as one update. -/
theorem blockFn_eq (kw : Vector Word 8) (c : Word) (nw : Vector Word 3) (s : State) :
    blockFn kw c nw s =
      (blockBytes kw c nw,
        { s with
          W := feedForwardWords (permWords (initStateWords kw c nw)) (initStateWords kw c nw)
          S := initStateWords kw c nw
          RND := 20 }) := by
  simp only [blockFn, perm_eq, blockBytes, feedForward, save, initState]

/-- `HCHACHA20` as one update; `S` keeps its value. -/
theorem hchacha20_eq (kw : Vector Word 8) (hw : Vector Word 4) (s : State) :
    hchacha20 kw hw s =
      (subkeyWords kw hw, { s with W := permWords (hinitWords kw hw), RND := 20 }) := by
  simp only [hchacha20, perm_eq, subkeyWords, hinit]

/-- Word `i` after FEEDFWD (spec/41_permutation.md R119). -/
@[simp] theorem getElem_feedForwardWords (w s : Vector Word 16) (i : Nat) (h : i < 16) :
    (feedForwardWords w s)[i] = w[i] + s[i] := by
  simp [feedForwardWords, add32]

/-- Byte `i` of SER (R121). -/
@[simp] theorem getElem_ser (w : Vector Word 16) (i : Nat) (h : i < 64) :
    (ser w)[i] = wordByte (w[i / 4]'(by omega)) (i % 4) := by
  simp [ser]

/-- A word of a vector after a write to one of its places. -/
theorem getElem_set_fin (w : Vector Word 16) (j i : Fin 16) (v : Word) :
    (w.set j v)[i] = if j = i then v else w[i] := by
  simp only [Fin.getElem_fin, Vector.getElem_set, Fin.ext_iff]

/-- The response clears what the transient registers held. -/
theorem respond_transient (rc : ResultCode) (payload : List Byte) (s : State) (w v : Vector Word 16)
    (r : Fin 21) :
    respond rc payload { s with W := w, S := v, RND := r } = respond rc payload s := rfl

end Sys2Proof.Machine
end

