-- ==== Sys2Proof/Laws/Keystream.lean ====
section
/-! SUPPORT. What `REFILL` and `XORBYTE` do to each field, and how serving a byte string composes. -/

namespace Sys2Proof.Machine

theorem refill_eq (s : State) :
    refill s =
      { s with
        BUF := blockBytes s.K s.CTR s.N
        OFF := 0
        CTR := s.CTR + 1
        W := feedForwardWords (permWords (initStateWords s.K s.CTR s.N)) (initStateWords s.K s.CTR s.N)
        S := initStateWords s.K s.CTR s.N
        RND := 20 } := by
  simp only [refill, blockFn_eq]

/-- The byte a block holds at a place within it. -/
theorem bufByte_of_lt (b : Vector Byte 64) (i : Nat) (h : i < 64) : bufByte b i = b[i] := by
  simp [bufByte, h]

theorem bufByte_discardByte (b : Vector Byte 64) (i j : Nat) :
    bufByte (discardByte b i) j = if j = i then 0 else bufByte b j := by
  simp only [bufByte, discardByte, Vector.getElem?_setIfInBounds]
  by_cases h : i = j
  · subst h
    by_cases h2 : i < 64 <;> simp [h2]
  · simp [h, Ne.symm h]

@[simp] theorem bufByte_replicate_zero (i : Nat) : bufByte (Vector.replicate 64 0) i = 0 := by
  by_cases h : i < 64 <;> simp [bufByte, h]

/-- Two buffers that agree on their 64 bytes are equal. -/
theorem buf_ext (a b : Vector Byte 64) (h : ∀ i, i < 64 → bufByte a i = bufByte b i) : a = b := by
  ext i hi
  rw [← bufByte_of_lt a i hi, ← bufByte_of_lt b i hi, h i hi]

theorem offNext_val (o : Fin 65) (h : o.val < 64) : (offNext o).val = o.val + 1 := by
  simp only [offNext, Fin.val_add, Fin.val_one]
  omega

theorem xorByte_of_nonempty (x : Byte) (s : State) (h : s.OFF ≠ 64) :
    xorByte x s =
      (xor8 x (bufByte s.BUF s.OFF.val),
        { s with BUF := discardByte s.BUF s.OFF.val, OFF := offNext s.OFF }) := by
  simp only [xorByte, if_neg h]

theorem xorByte_of_empty (x : Byte) (s : State) (h : s.OFF = 64) :
    xorByte x s = xorByte x (refill s) := by
  have h0 : (refill s).OFF ≠ 64 := by
    rw [refill_eq]
    exact show (0 : Fin 65) ≠ 64 by decide
  rw [xorByte_of_nonempty x (refill s) h0]
  simp only [xorByte, if_pos h]

/-- `XORBYTE` on an empty buffer, as one update: the block for the current counter is generated, and its
first byte consumed. -/
theorem xorByte_of_empty_eq (x : Byte) (s : State) (h : s.OFF = 64) :
    xorByte x s =
      (xor8 x (bufByte (blockBytes s.K s.CTR s.N) 0),
        { s with
          BUF := discardByte (blockBytes s.K s.CTR s.N) 0
          OFF := offNext 0
          CTR := s.CTR + 1
          W := feedForwardWords (permWords (initStateWords s.K s.CTR s.N)) (initStateWords s.K s.CTR s.N)
          S := initStateWords s.K s.CTR s.N
          RND := 20 }) := by
  simp only [xorByte, if_pos h, refill_eq, Fin.val_zero]

@[simp] theorem xorBytes_nil (s : State) : xorBytes [] s = ([], s) := rfl

theorem xorBytes_cons (x : Byte) (rest : List Byte) (s : State) :
    xorBytes (x :: rest) s =
      ((xorByte x s).1 :: (xorBytes rest (xorByte x s).2).1, (xorBytes rest (xorByte x s).2).2) := rfl

@[simp] theorem length_xorBytes (data : List Byte) (s : State) :
    (xorBytes data s).1.length = data.length := by
  induction data generalizing s with
  | nil => rfl
  | cons x rest ih => simp [xorBytes_cons, ih]

theorem xorBytes_append (a b : List Byte) (s : State) :
    xorBytes (a ++ b) s =
      ((xorBytes a s).1 ++ (xorBytes b (xorBytes a s).2).1, (xorBytes b (xorBytes a s).2).2) := by
  induction a generalizing s with
  | nil => simp
  | cons x rest ih => simp [xorBytes_cons, ih]

/-- What consuming a byte does not touch (spec/44_xor.md R190). -/
theorem xorByte_keeps (x : Byte) (s : State) :
    (xorByte x s).2.K = s.K ∧ (xorByte x s).2.N = s.N ∧ (xorByte x s).2.ST = s.ST ∧
    (xorByte x s).2.VAR = s.VAR ∧ (xorByte x s).2.ERR = s.ERR ∧ (xorByte x s).2.BUSY = s.BUSY ∧
    (xorByte x s).2.input = s.input ∧ (xorByte x s).2.rsp = s.rsp := by
  by_cases h : s.OFF = 64
  · simp only [xorByte_of_empty_eq x s h, and_self]
  · simp only [xorByte_of_nonempty x s h, and_self]

/-- What serving a byte string does not touch. -/
theorem xorBytes_keeps (data : List Byte) (s : State) :
    (xorBytes data s).2.K = s.K ∧ (xorBytes data s).2.N = s.N ∧ (xorBytes data s).2.ST = s.ST ∧
    (xorBytes data s).2.VAR = s.VAR ∧ (xorBytes data s).2.ERR = s.ERR ∧ (xorBytes data s).2.BUSY = s.BUSY ∧
    (xorBytes data s).2.input = s.input ∧ (xorBytes data s).2.rsp = s.rsp := by
  induction data generalizing s with
  | nil => simp only [xorBytes_nil, and_self]
  | cons x rest ih =>
    simp only [xorBytes_cons]
    obtain ⟨h1, h2, h3, h4, h5, h6, h7, h8⟩ := xorByte_keeps x s
    rw [← h1, ← h2, ← h3, ← h4, ← h5, ← h6, ← h7, ← h8]
    exact ih _

/-- When a request cannot be served whole, in linear arithmetic (spec/43_keystream.md R165). -/
theorem admissible_eq_false_iff (s : State) (n : Nat) :
    admissible s n = false ↔
      64 - s.OFF.val < n ∧ 0xFFFFFFFF < s.CTR.toNat + (n - (64 - s.OFF.val) + 63) / 64 := by
  have hr : remaining s = 64 - s.OFF.val := rfl
  unfold admissible blocksNeeded
  rw [Bool.or_eq_false_iff, decide_eq_false_iff_not, decide_eq_false_iff_not]
  by_cases h : n ≤ remaining s
  · rw [if_pos h]
    rw [hr] at h ⊢
    simp only [Config.ctrMax]
    omega
  · rw [if_neg h]
    rw [hr] at h ⊢
    simp only [Config.ctrMax, Config.blockBytes]
    omega

end Sys2Proof.Machine
end

