-- ==== Sys2Proof/Laws/PerInstr.lean ====
section
/-! SUPPORT. Facts about every command as syntax, one lemma per constructor: the header its packet begins
with (spec/30_encoding.md R72) and the packet's total length (R73 to R76). -/

namespace Sys2Proof.Laws.EncodeHeader

open Sys2Proof.Machine

/-- A well-formed command's packet begins with its opcode, has the reserved header bits 0, and has the total
length that R81 condition 5 computes from its own header and length field. -/
def Statement (i : Instr) : Prop :=
  i.wellFormed = true →
    byteAt (encode i) 0 = opcode i ∧ (byteAt (encode i) 1).extractLsb' 1 7 = 0 ∧
    (encode i).length = formatLength (encode i)

theorem headerKlen_le32 (b0 b1 b2 b3 : Byte) : headerKlen (le32 b0 b1 b2 b3) = b2.toNat := by
  have := wordByte_le32_two b0 b1 b2 b3
  simpa [headerKlen, wordByte] using congrArg BitVec.toNat this

theorem headerNlen_le32 (b0 b1 b2 b3 : Byte) : headerNlen (le32 b0 b1 b2 b3) = b3.toNat := by
  have := wordByte_le32_three b0 b1 b2 b3
  simpa [headerNlen, wordByte] using congrArg BitVec.toNat this

theorem headerOpc_le32 (b0 b1 b2 b3 : Byte) : headerOpc (le32 b0 b1 b2 b3) = b0 :=
  wordByte_le32_zero b0 b1 b2 b3

theorem reserved_flag (c : Bool) : ((if c then 1 else 0 : Byte)).extractLsb' 1 7 = 0 := by
  cases c <;> decide

theorem length_key (n : Nat) (h : n < 2 ^ 8) : (BitVec.ofNat 8 n).toNat = n := by
  simp only [BitVec.toNat_ofNat]
  omega

theorem init (ctr : Option Word) (key nonce : List Byte) : Statement (.init ctr key nonce) := by
  intro h
  simp only [Instr.wellFormed, Bool.and_eq_true, decide_eq_true_eq] at h
  refine ⟨rfl, reserved_flag _, ?_⟩
  simp only [encode, encodeFormatK, encodeHeader, formatLength, headerWord, byteAt, opcode,
    List.cons_append, List.nil_append, List.getD_cons_zero, List.getD_cons_succ, headerOpc_le32,
    headerKlen_le32, headerNlen_le32, length_key _ h.1, length_key _ h.2]
  simp [ser32]
  omega

theorem xorks (olen : Nat) (data : List Byte) : Statement (.xorks olen data) := by
  intro h
  simp [Instr.wellFormed] at h
  refine ⟨rfl, reserved_flag false, ?_⟩
  have hl : le64 (slice (encode (.xorks olen data)) 4 8) = data.length := by
    have : slice (encode (.xorks olen data)) 4 8 = serNat 8 data.length := by
      simp [encode, encodeHeader, slice, serNat]
    rw [this, le64, List.take_of_length_le (by simp), leNat_serNat _ _ (of_decide_eq_true h.2)]
  simp only [formatLength, hl]
  simp only [encode, encodeHeader, headerWord, byteAt, opcode,
    List.cons_append, List.nil_append, List.getD_cons_zero, List.getD_cons_succ, headerOpc_le32]
  simp
  omega

theorem hchacha (key nonce : List Byte) : Statement (.hchacha key nonce) := by
  intro h
  simp only [Instr.wellFormed, Bool.and_eq_true, decide_eq_true_eq] at h
  refine ⟨rfl, reserved_flag false, ?_⟩
  simp only [encode, encodeHeader, formatLength, headerWord, byteAt, opcode,
    List.cons_append, List.nil_append, List.getD_cons_zero, List.getD_cons_succ, headerOpc_le32,
    headerKlen_le32, headerNlen_le32, length_key _ h.1, length_key _ h.2]
  simp
  omega

theorem block (ctr : Option Word) (key nonce : List Byte) : Statement (.block ctr key nonce) := by
  intro h
  simp only [Instr.wellFormed, Bool.and_eq_true, decide_eq_true_eq] at h
  refine ⟨rfl, reserved_flag _, ?_⟩
  simp only [encode, encodeFormatK, encodeHeader, formatLength, headerWord, byteAt, opcode,
    List.cons_append, List.nil_append, List.getD_cons_zero, List.getD_cons_succ, headerOpc_le32,
    headerKlen_le32, headerNlen_le32, length_key _ h.1, length_key _ h.2]
  simp [ser32]
  omega

theorem zeroize : Statement .zeroize := by
  intro _
  exact ⟨rfl, by decide, by decide⟩

end Sys2Proof.Laws.EncodeHeader
end

