-- ==== Sys2Proof/Laws/Step.lean ====
section
/-! SUPPORT. `step`, one lemma for each thing the core can find at the head of its inputs. -/

namespace Sys2Proof.Machine

theorem step_of_reset (s : State) (rest : List HostInput) (h : nextTransaction s.input = .reset rest) :
    step s = .next (resetEvent rest s) := by
  simp only [step, h]

theorem step_of_packet (s : State) (p : List Byte) (rest : List HostInput) (hb : s.BUSY = false)
    (h : nextTransaction s.input = .packet p rest) : step s = runPacket p (acceptPacket rest s) := by
  simp [step, h, hb]

theorem step_of_wait (s : State) (hb : s.BUSY = false) (h : nextTransaction s.input = .wait) :
    step s = .next s := by
  simp [step, h, hb]

theorem runPacket_of_ok (p : List Byte) (i : Instr) (s : State) (h : decode p = .ok i) :
    runPacket p s = exec i s := by
  simp only [runPacket, h]

theorem runPacket_of_error (p : List Byte) (e : Illegal) (s : State) (h : decode p = .error e) :
    runPacket p s = .next (respond .illegalCommand [] s) := by
  simp only [runPacket, h, illegalCommand, raise]

end Sys2Proof.Machine
end

