-- ==== Sys2Proof/Laws/WellFormed.lean ====
section
/-! SUPPORT. The check of `WellFormed.lean` for each command as a proposition about its lengths. -/

namespace Sys2Proof

@[simp] theorem wellFormed_init (ctr : Option Word) (key nonce : List Byte) :
    (Instr.init ctr key nonce).wellFormed = true ↔ key.length < 256 ∧ nonce.length < 256 := by
  simp [Instr.wellFormed]

@[simp] theorem wellFormed_hchacha (key nonce : List Byte) :
    (Instr.hchacha key nonce).wellFormed = true ↔ key.length < 256 ∧ nonce.length < 256 := by
  simp [Instr.wellFormed]

@[simp] theorem wellFormed_block (ctr : Option Word) (key nonce : List Byte) :
    (Instr.block ctr key nonce).wellFormed = true ↔ key.length < 256 ∧ nonce.length < 256 := by
  simp [Instr.wellFormed]

@[simp] theorem wellFormed_xorks (olen : Nat) (data : List Byte) :
    (Instr.xorks olen data).wellFormed = true ↔
      olen < 18446744073709551616 ∧ data.length < 18446744073709551616 := by
  simp only [Instr.wellFormed, Bool.and_eq_true]
  exact ⟨fun h => ⟨of_decide_eq_true h.1, of_decide_eq_true h.2⟩,
    fun h => ⟨decide_eq_true h.1, decide_eq_true h.2⟩⟩

@[simp] theorem wellFormed_zeroize : Instr.zeroize.wellFormed = true := rfl

end Sys2Proof
end

