-- ==== Sys2Proof/Machine/Pseudo.lean ====
section
/-! DEFINITION. The assembler's spellings of spec/30_encoding.md R89 and R90: the operand default of `XORKS`
and the pseudo-commands, each another name for a packet of a core command. -/

namespace Sys2Proof.Machine

/-- `XORKS in=<data> [olen=<n>]` (R89): `OLEN` defaults to the number of input bytes. -/
def asmXorks (data : List Byte) (olen : Option Nat) : Instr := .xorks (olen.getD data.length) data

/-- `ENCRYPT in=<data>` (R90). -/
def asmEncrypt (data : List Byte) : Instr := asmXorks data none

/-- `DECRYPT in=<data>` (R90): the identical operation (spec/44_xor.md R191). -/
def asmDecrypt (data : List Byte) : Instr := asmXorks data none

/-- `XINIT key=<key> nonce=<nonce>` (R90): `INIT` with a 24-byte nonce and no counter. -/
def asmXinit (key nonce : List Byte) : Instr := .init none key nonce

/-- `RELEASE` (R90). -/
def asmRelease : Instr := .zeroize

end Sys2Proof.Machine
end

