-- ==== Sys2Proof/Tests/Slice0.lean ====
section
/-! SUPPORT. Tests. The expected values are those written out in spec/30_encoding.md section 4 and in
spec/95_test_vectors.md (the row is named at each test), none is taken from the model. After them, for each
obligation with hypotheses, a concrete state and operands that meet the hypotheses together
(`witness_<obligation>`). -/

namespace Sys2Proof.Tests

open Sys2Proof Sys2Proof.Machine Sys2Proof.Safety

/-! ## Byte strings and states the tests share -/

/-- `n` bytes counting up from `a`. -/
def count (a n : Nat) : List Byte := (List.range n).map fun i => BitVec.ofNat 8 (a + i)

/-- `KA` = `00 01 .. 1f`, `KB` = `80 81 .. 9f`, `XN` = `40 41 .. 57`, `Z12` = twelve zero bytes. -/
def KA : List Byte := count 0x00 32
def KB : List Byte := count 0x80 32
def XN : List Byte := count 0x40 24
def Z12 : List Byte := List.replicate 12 0

/-- A ready context with the key words of `KA` and a zero nonce, as after row I1. -/
def ready (ctr : Word) (off : Fin 65) (buf : Vector Byte 64) : State :=
  { State.reset with
    K := #v[0x03020100, 0x07060504, 0x0b0a0908, 0x0f0e0d0c, 0x13121110, 0x17161514, 0x1b1a1918, 0x1f1e1d1c]
    CTR := ctr
    OFF := off
    BUF := buf
    ST := .ready }

def noBytes : Vector Byte 64 := Vector.replicate 64 0

/-- The bytes answered by one step that takes the packet `p`, and the state shown as the spec shows it. -/
def answers (p : List Byte) (s : State) (bytes : List Byte)
    (st : Lifecycle) (var : Variant) (err : ResultCode) (ctr : Word) (off : Nat) : Bool :=
  match step (sendPacket p s) with
  | .next t =>
    t.rsp == s.rsp ++ packetBeats bytes && t.ST == st && t.VAR == var && t.ERR == err &&
      t.CTR == ctr && t.OFF.val == off && t.BUSY == false && t.input == s.input
  | _ => false

/-- Whether one step gives exactly the next state `t`. -/
def stepsTo (s t : State) : Bool :=
  match step s with
  | .next u => decide (u = t)
  | _ => false

/-! ## WellFormed: an ill-formed term for each check -/

theorem test_wf_init :
    (Instr.init none (List.replicate 256 0) []).wellFormed = false ∧
    (Instr.init none [] (List.replicate 256 0)).wellFormed = false := by decide +kernel
theorem test_wf_block :
    (Instr.block none (List.replicate 256 0) []).wellFormed = false ∧
    (Instr.block none [] (List.replicate 256 0)).wellFormed = false := by decide +kernel
theorem test_wf_hchacha :
    (Instr.hchacha (List.replicate 256 0) []).wellFormed = false ∧
    (Instr.hchacha [] (List.replicate 256 0)).wellFormed = false := by decide +kernel
theorem test_wf_xorks_olen : (Instr.xorks (2 ^ 64) []).wellFormed = false := by decide
theorem test_wf_xorks_data (data : List Byte) (h : data.length = 2 ^ 64) :
    (Instr.xorks 0 data).wellFormed = false := by
  simp [Instr.wellFormed, h]

/-- R81 condition 1 (row E13). -/
theorem test_packet_short : packetWellFormed [0x05, 0, 0] = false := by decide
/-- Condition 2 (row E12). -/
theorem test_packet_opcode :
    packetWellFormed [0x00, 0, 0, 0] = false ∧ packetWellFormed [0x06, 0, 0, 0] = false ∧
    packetWellFormed [0xff, 0, 0, 0] = false := by decide
/-- Condition 3 (row E11). -/
theorem test_packet_reserved :
    packetWellFormed ([0x01, 0x02, 0x20, 0x0c, 0, 0, 0, 0] ++ KA ++ Z12) = false := by decide
/-- Condition 4 (rows E14, E15, E20). -/
theorem test_packet_unused :
    packetWellFormed [0x05, 0x01, 0, 0] = false ∧
    packetWellFormed ([0x02, 0, 0x01, 0] ++ List.replicate 16 0) = false ∧
    packetWellFormed ([0x03, 0x01, 0x20, 0x10] ++ KA ++ List.replicate 16 0) = false := by decide
/-- Condition 5 (rows E8, E9, E14, E16, E17). -/
theorem test_packet_length :
    packetWellFormed ([0x01, 0, 0x20, 0x0c, 0, 0, 0, 0] ++ KA ++ List.replicate 11 0) = false ∧
    packetWellFormed ([0x01, 0, 0x20, 0x0c, 0, 0, 0, 0] ++ KA ++ List.replicate 13 0) = false ∧
    packetWellFormed [0x05, 0, 0, 0, 0] = false ∧
    packetWellFormed ([0x02, 0, 0, 0] ++ List.replicate 15 0) = false ∧
    packetWellFormed ([0x02, 0, 0, 0, 2, 0, 0, 0, 0, 0, 0, 0, 2, 0, 0, 0, 0, 0, 0, 0] ++ [0]) = false := by
  decide
/-- Condition 6 (row E10). -/
theorem test_packet_counter_field :
    packetWellFormed ([0x01, 0, 0x20, 0x0c, 1, 0, 0, 0] ++ KA ++ Z12) = false := by decide

/-! ## Decode: the packets of spec/30_encoding.md section 4, and the reasons a packet is malformed -/

/-- R77. -/
theorem test_decode_init :
    decode ([0x01, 0x00, 0x20, 0x0c, 0x00, 0x00, 0x00, 0x00] ++ KA ++ Z12) = .ok (.init none KA Z12) := by
  decide
/-- Row I2: the counter is little-endian. -/
theorem test_decode_init_counter :
    decode ([0x01, 0x01, 0x20, 0x0c, 0xfe, 0xff, 0xff, 0xff] ++ KA ++ Z12)
      = .ok (.init (some 0xfffffffe) KA Z12) := by decide
/-- R78; row X5 for an `OLEN` of its own. -/
theorem test_decode_xorks :
    decode [0x02, 0, 0, 0, 3, 0, 0, 0, 0, 0, 0, 0, 4, 0, 0, 0, 0, 0, 0, 0, 0xaa, 0xbb, 0xcc]
      = .ok (.xorks 4 [0xaa, 0xbb, 0xcc]) := by decide
/-- R79, row H3. -/
theorem test_decode_hchacha :
    decode ([0x03, 0x00, 0x20, 0x10] ++ KB ++ count 0x40 16) = .ok (.hchacha KB (count 0x40 16)) := by
  decide
/-- R91, row B1. -/
theorem test_decode_block :
    decode ([0x04, 0x01, 0x20, 0x0c, 0x01, 0, 0, 0] ++ KA ++ [0, 0, 0, 9, 0, 0, 0, 0x4a, 0, 0, 0, 0])
      = .ok (.block (some 1) KA [0, 0, 0, 9, 0, 0, 0, 0x4a, 0, 0, 0, 0]) := by decide
/-- R80. -/
theorem test_decode_zeroize : decode [0x05, 0x00, 0x00, 0x00] = .ok .zeroize := by decide

/-- Each reason the decoder rejects for, by name. -/
theorem test_decode_illegal :
    decode [0x05, 0, 0] = .error .shorterThanHeader ∧
    decode [0x05, 0x80, 0, 0] = .error .reservedHeaderBits ∧
    decode [0x06, 0, 0, 0] = .error .reservedOpcode ∧
    decode [0x05, 0, 0, 1] = .error .unusedFieldNotZero ∧
    decode [0x05, 0, 0, 0, 0] = .error .wrongLength ∧
    decode [0x04, 0, 0, 0, 0, 0, 0, 1] = .error .counterFieldNotZero := by decide

/-- The match words of spec/opcode_table.json, with operand bytes of 0. -/
theorem test_table_words :
    decodeTableWord 32 0x00000001 = some (.init none [] []) ∧
    decodeTableWord 32 0x00000101 = some (.init (some 0) [] []) ∧
    decodeTableWord 32 0x00000002 = some (.xorks 0 []) ∧
    decodeTableWord 32 0x02010003 = some (.hchacha [0] [0, 0]) ∧
    decodeTableWord 32 0x00000004 = some (.block none [] []) ∧
    decodeTableWord 32 0x00000005 = some .zeroize ∧
    decodeTableWord 32 0x00000006 = none := by decide

/-- A table word is what the very next step runs: `XORKS` in the reset state answers `NotReady` (R186). -/
theorem test_fetch_word :
    stepsTo (State.reset.withFetchWord 32 0x00000002)
      { State.reset with ERR := .notReady, rsp := [⟨0x06, true⟩] } = true := by decide

/-- R90: the pseudo-commands are the packets of the core commands. -/
theorem test_pseudo :
    asmEncrypt [1, 2] = .xorks 2 [1, 2] ∧ asmDecrypt [1, 2] = .xorks 2 [1, 2] ∧
    asmXorks [1, 2] (some 3) = .xorks 3 [1, 2] ∧ asmXinit KB XN = .init none KB XN ∧
    asmRelease = .zeroize := by decide

/-! ## Micro-operations (spec/95_test_vectors.md sections 2.1 to 2.3) -/

/-- `S0`, section 2.1 row 1. -/
def S0 : Vector Word 16 :=
  #v[0x61707865, 0x3320646e, 0x79622d32, 0x6b206574, 0x03020100, 0x07060504, 0x0b0a0908, 0x0f0e0d0c,
    0x13121110, 0x17161514, 0x1b1a1918, 0x1f1e1d1c, 0x00000001, 0x09000000, 0x4a000000, 0x00000000]

theorem test_initstate :
    (initState (le32s 8 KA) 1 (le32s 3 [0, 0, 0, 9, 0, 0, 0, 0x4a, 0, 0, 0, 0]) State.reset).W = S0 := by
  decide

/-- Section 2.2 rows 1 and 3, the four words at the places of the first column. -/
theorem test_quarter_round :
    quarterRound 0 4 8 12
        #v[0x11111111, 0, 0, 0, 0x01020304, 0, 0, 0, 0x9b8d6f43, 0, 0, 0, 0x01234567, 0, 0, 0]
      = #v[0xea2a92f4, 0, 0, 0, 0xcb1cf8ce, 0, 0, 0, 0x4581472e, 0, 0, 0, 0x5881c4bb, 0, 0, 0] ∧
    quarterRound 0 4 8 12
        #v[0xffffffff, 0, 0, 0, 0xffffffff, 0, 0, 0, 0xffffffff, 0, 0, 0, 0xffffffff, 0, 0, 0]
      = #v[0xf0000ffd, 0, 0, 0, 0x88790878, 0, 0, 0, 0x0110fdef, 0, 0, 0, 0x010ffdf0, 0, 0, 0] := by
  decide +kernel

theorem test_column_round :
    columnRound S0 =
      #v[0xabbaa25c, 0x1efa51ea, 0x7354fbdf, 0x83d2dc69, 0x3a465196, 0x1c7e64f6, 0xb12fb628, 0xf05b6976,
        0x6b3ca454, 0x08eb14b1, 0xbf8a9ac9, 0xe444df3b, 0xdec62ed2, 0x8862cc77, 0x6e35b345, 0x52a647f1] := by
  decide +kernel

theorem test_double_round :
    doubleRound S0 =
      #v[0xcd52e917, 0x85ab03b4, 0xb3457395, 0xf96de7dd, 0xc4b7cd22, 0x5c2e187a, 0xc95eb461, 0x316c801a,
        0x7bf7d740, 0x7eddd644, 0xf1a1bdf5, 0x761246ca, 0x6b0d58a3, 0x6798471a, 0xd737f167, 0xf173888d] := by
  decide +kernel

/-- R26, R27, R36: the pins of a ready context (row X1's state) and of an exhausted Extended one. -/
theorem test_status_pins :
    statusPins (ready 1 3 noBytes) = ⟨1, 0, 0, 0, 1, 3⟩ ∧
    statusPins { ready 0xffffffff 64 noBytes with ST := .exhausted, VAR := .extended, ERR := .counterExhausted }
      = ⟨2, 1, 4, 0, 0xffffffff, 64⟩ := by decide

/-! ## One step of each command: the checks and errors -/

/-- Row E5: the key is checked before the nonce. -/
theorem test_init_key_first :
    answers ([0x01, 0, 0x1f, 0x0d, 0, 0, 0, 0] ++ count 0 31 ++ List.replicate 13 0) State.reset
      [0x01] .uninit .classic .invalidKeySize 0 64 = true := by decide

/-- Program P4, the all-or-nothing variant, line 3: 54 bytes are buffered and 119 are asked for. -/
theorem test_xorks_exhausts :
    answers ([0x02, 0, 0, 0, 119, 0, 0, 0, 0, 0, 0, 0, 119, 0, 0, 0, 0, 0, 0, 0] ++ List.replicate 119 0)
      (ready 0xfffffffe 10 noBytes)
      [0x04] .exhausted .classic .counterExhausted 0xfffffffe 10 = true := by decide +kernel

/-- Row E18: `HCHACHA` does not take a 12-byte nonce. -/
theorem test_hchacha_nonce :
    answers ([0x03, 0, 0x20, 0x0c] ++ KA ++ Z12) State.reset
      [0x02] .uninit .classic .invalidNonceSize 0 64 = true := by decide

/-- Row E22: `BLOCK` with a 16-byte key. -/
theorem test_block_key :
    answers ([0x04, 0, 0x10, 0x0c, 0, 0, 0, 0] ++ count 0 16 ++ Z12) State.reset
      [0x01] .uninit .classic .invalidKeySize 0 64 = true := by decide

/-- Row X8: `ZEROIZE` on a live context. -/
theorem test_zeroize :
    stepsTo (sendPacket [0x05, 0, 0, 0] (ready 2 1 noBytes))
      { State.reset with rsp := [⟨0x00, true⟩] } = true := by decide

/-- Row E12: a reserved opcode on a live context changes `ERR` only. -/
theorem test_illegal :
    stepsTo (sendPacket [0x06, 0, 0, 0] (ready 2 1 noBytes))
      { ready 2 1 noBytes with ERR := .illegalCommand, rsp := [⟨0x05, true⟩] } = true := by decide

/-! ## Witnesses: the hypotheses of each obligation, met together -/

/-- A ready context in the middle of block 0 of its keystream, three bytes consumed. -/
def midBlock : State := ready 1 3 (blockBytes (ready 0 64 noBytes).K 0 State.reset.N)

/-- The same state with its consumed positions 0, as R24 has them, and a packet sent. -/
def midBlockClean : State :=
  { midBlock with
    BUF := discardByte (discardByte (discardByte midBlock.BUF 0) 1) 2
    input := [.beat ⟨0x05, false⟩, .beat ⟨0, false⟩, .beat ⟨0, false⟩, .beat ⟨0, true⟩] }

theorem witness_ResetValuesOfEveryElement :
    (State.reset = State.reset ∨ ∃ rest s, State.reset = resetEvent rest s) ∧
    ∃ rest s, resetEvent [.reset] (ready 2 1 noBytes) = resetEvent rest s :=
  ⟨.inl rfl, _, _, rfl⟩

theorem witness_ResetAbandonsWhatWasBegun :
    let s : State := { ready 2 1 noBytes with
      BUSY := true, input := [.beat ⟨0x05, false⟩, .beat ⟨0, false⟩, .reset, .beat ⟨0x05, false⟩] }
    s.input = [0x05, 0].map (fun b => HostInput.beat ⟨b, false⟩) ++ HostInput.reset :: [.beat ⟨0x05, false⟩] :=
  rfl

theorem witness_PacketEndsAtTheByteMarkedLast :
    ([0x05] : List Byte) ≠ [] ∧
    nextTransaction [.beat ⟨0x05, false⟩, .beat ⟨0, true⟩, .reset] = .packet [0x05, 0] [.reset] := by decide

theorem witness_StepRunsTheDecodedCommand :
    let s := sendPacket [0x05, 0, 0, 0] (ready 2 1 noBytes)
    s.BUSY = false ∧ nextTransaction s.input = .packet [0x05, 0, 0, 0] [] ∧
    decode [0x05, 0, 0, 0] = .ok .zeroize := by decide

/-- Also the boundary opcodes of the second clause. -/
theorem witness_MalformedPacketIsIllegalCommand :
    Idle (sendPacket [0x06, 0, 0, 0] (ready 2 1 noBytes)) ∧
    Offered (sendPacket [0x06, 0, 0, 0] (ready 2 1 noBytes)) [0x06, 0, 0, 0] [] ∧
    packetWellFormed [0x06, 0, 0, 0] = false ∧
    byteAt [0x00, 0, 0, 0] 0 = 0 ∧ 6 ≤ (byteAt [0x06, 0, 0, 0] 0).toNat ∧
    6 ≤ (byteAt [0xff, 0, 0, 0] 0).toNat :=
  ⟨⟨rfl, rfl, rfl, rfl⟩, by decide, by decide, by decide, by decide, by decide⟩

theorem witness_EveryPacketGetsOneResponse :
    State.reset.BUSY = false ∧ Offered (sendPacket [0x00] State.reset) [0x00] [] ∧
    nextTransaction [.beat ⟨0x00, true⟩, .reset] = .packet [0x00] [.reset] := by decide

theorem witness_CoreNeverStops : (ready 2 1 noBytes).BUSY = false := rfl

theorem witness_IdleCoreWaits :
    let s : State := { ready 2 1 noBytes with input := [.beat ⟨0x05, false⟩] }
    s.BUSY = false ∧ s.input = [0x05].map (fun b => HostInput.beat ⟨b, false⟩) := ⟨rfl, rfl⟩

theorem witness_CommandInProgressIsRefused :
    let s : State := { ready 2 1 noBytes with BUSY := true }
    s.BUSY = true ∧ ∀ rest, nextTransaction s.input ≠ .reset rest :=
  ⟨rfl, fun _ h => Transaction.noConfusion h⟩

/-- The longest key and nonce the length fields carry. -/
theorem witness_DecodeOfEncodeIsTheCommand :
    (Instr.init (some 0xffffffff) (List.replicate 255 1) (List.replicate 255 2)).wellFormed = true ∧
    (Instr.xorks (2 ^ 64 - 1) [1]).wellFormed = true := by decide +kernel

theorem witness_EveryCommandHasOnePacket :
    decode [0x04, 0x01, 0, 1, 0xff, 0xff, 0xff, 0xff, 9] = .ok (.block (some 0xffffffff) [] [9]) := by
  decide

theorem witness_QuarterRoundMixesFourWords :
    (0 : Fin 16) ≠ 4 ∧ (0 : Fin 16) ≠ 8 ∧ (0 : Fin 16) ≠ 15 ∧ (4 : Fin 16) ≠ 8 ∧ (4 : Fin 16) ≠ 15 ∧
    (8 : Fin 16) ≠ 15 := by decide

theorem witness_QuarterRoundsOfAPassCommute :
    columnGroups.reverse.Perm columnGroups ∧ diagonalGroups.reverse.Perm diagonalGroups :=
  ⟨List.reverse_perm _, List.reverse_perm _⟩

theorem witness_PermIsABijection : permWords S0 = permWords S0 := rfl

theorem witness_ReducedNonceBeginsWithFourZeroBytes : XN.length = 24 := by decide

/-- The numbers of words the model converts, and none at all. -/
theorem witness_WordAndByteConversionsAreInverse :
    ([] : List Byte).length = 4 * 0 ∧ Z12.length = 4 * 3 ∧ (count 0x40 16).length = 4 * 4 ∧
    KA.length = 4 * 8 ∧ (count 0 64).length = 4 * 16 := by decide

theorem witness_InitLoadsTheContext :
    KA.length = 32 ∧ Z12.length = 12 ∧ XN.length = 24 := by decide

theorem witness_ExtendedInitIsClassicInitWithTheSubkey : KB.length = 32 ∧ XN.length = 24 := by decide

/-- Rows I1, I2 and I4: no counter, a counter, the greatest counter. -/
theorem witness_InitialCounterIsTakenOrZero :
    KA.length = 32 ∧ (Z12.length = 12 ∨ Z12.length = 24) ∧ (XN.length = 12 ∨ XN.length = 24) ∧
    (none : Option Word) = none ∧ some (0xfffffffe : Word) = some 0xfffffffe ∧
    some (0xffffffff : Word) = some 0xffffffff ∧ ([0] : List Byte) ≠ [] := by decide

/-- Key sizes 0, 31, 33 and 255 (R214). -/
theorem witness_WrongKeySizeIsRejected :
    ([] : List Byte).length ≠ 32 ∧ (count 0 31).length ≠ 32 ∧ (count 0 33).length ≠ 32 ∧
    (List.replicate 255 (0 : Byte)).length ≠ 32 := by decide +kernel

/-- Nonce sizes 13 for `INIT`, 24 for `BLOCK`, 12 for `HCHACHA` (rows E4, E21, E18). -/
theorem witness_WrongNonceSizeIsRejected :
    KA.length = 32 ∧ (count 0 13).length ≠ 12 ∧ (count 0 13).length ≠ 24 ∧ XN.length ≠ 12 ∧
    Z12.length ≠ 16 := by decide

theorem witness_StatelessCommandsRevealNothing :
    (∃ ctr key nonce, Instr.block (some 1) KA Z12 = .block ctr key nonce) ∧
    (∃ key nonce, Instr.hchacha KA Z12 = .hchacha key nonce) := ⟨⟨_, _, _, rfl⟩, _, _, rfl⟩

/-- The greatest counter `REFILL` runs with. -/
theorem witness_RefillGeneratesOneBlock : (ready 0xfffffffe 64 noBytes).CTR ≠ 0xFFFFFFFF := by decide

/-- An empty buffer, a full one, and one with its last byte left. -/
theorem witness_XorByteConsumesOneByte :
    (ready 0 64 noBytes).OFF.val = 64 ∧ (ready 1 0 noBytes).OFF.val < 64 ∧
    (ready 1 63 noBytes).OFF.val < 64 := by decide

theorem witness_XorksChecksInOrder :
    State.reset.ST = .uninit ∧
    ((ready 0 64 noBytes).ST ≠ .uninit ∧ 4 ≠ ([1, 2, 3] : List Byte).length) ∧
    (({ ready 0 64 noBytes with ST := .exhausted } : State).ST = .exhausted ∧ 0 = ([] : List Byte).length) ∧
    ((ready 0xffffffff 64 noBytes).ST = .ready ∧ 0 = ([] : List Byte).length ∧ ([] : List Byte) = []) := by
  decide

/-- Program P4: 118 bytes are the most that can be served, 119 exhaust. -/
theorem witness_ExhaustionIsDecidedUpFront :
    (ready 0xfffffffe 10 noBytes).ST = .ready ∧
    exhausts (ready 0xfffffffe 10 noBytes) (List.replicate 119 (0 : Byte)).length ∧
    ¬ exhausts (ready 0xfffffffe 10 noBytes) (List.replicate 118 (0 : Byte)).length := by decide

/-- Served from the buffer to its end, and one byte into a fresh block. -/
theorem witness_XorksServesTheRequest :
    (ready 1 3 noBytes).ST = .ready ∧
    (¬ exhausts (ready 1 3 noBytes) (List.replicate 61 (0 : Byte)).length ∧
      (List.replicate 61 (0 : Byte)).length ≤ 64 - (ready 1 3 noBytes).OFF.val) ∧
    (¬ exhausts (ready 1 3 noBytes) (List.replicate 62 (0 : Byte)).length ∧
      64 - (ready 1 3 noBytes).OFF.val < (List.replicate 62 (0 : Byte)).length) := by decide

theorem witness_InitStartsTheKeystream :
    KA.length = 32 ∧ (Z12.length = 12 ∨ Z12.length = 24) ∧ (XN.length = 12 ∨ XN.length = 24) ∧
    XN.length = 24 := by decide

/-- Position 3 of a keystream, in the middle of its first block. -/
theorem midBlock_at_position_three : AtPosition midBlock midBlock.K midBlock.N 0 3 :=
  ⟨rfl, rfl, rfl, rfl, rfl, fun i h1 h2 => by
    have e1 : (64 * (3 / 64) + i) / 64 = 0 := by omega
    have e2 : (64 * (3 / 64) + i) % 64 = i := by omega
    simp only [streamByte, e1, e2]
    rfl⟩

/-- The whole keystream of initial counter 0xFFFFFFFE consumed. -/
theorem last_block_consumed :
    AtPosition (ready 0xffffffff 64 noBytes) (ready 0 64 noBytes).K (ready 0 64 noBytes).N 0xfffffffe 64 :=
  ⟨rfl, rfl, rfl, rfl, rfl, fun i h1 h2 => absurd h1 (by
    have : (ready 0xffffffff 64 noBytes).OFF.val = 64 := rfl
    omega)⟩

/-- Both clauses: a request that fits, and one byte too many at the end. -/
theorem witness_KeystreamIsHandedOutInOrder :
    (AtPosition midBlock midBlock.K midBlock.N 0 3 ∧
      3 + ([1, 2] : List Byte).length ≤ 64 * (0xFFFFFFFF - (0 : Word).toNat)) ∧
    (AtPosition (ready 0xffffffff 64 noBytes) (ready 0 64 noBytes).K (ready 0 64 noBytes).N 0xfffffffe 64 ∧
      ([0] : List Byte) ≠ [] ∧
      64 * (0xFFFFFFFF - (0xfffffffe : Word).toNat) < 64 + ([0] : List Byte).length) :=
  ⟨⟨midBlock_at_position_three, by decide⟩, last_block_consumed, by decide, by decide⟩

/-- A split that crosses a block, in the last block but one of the counter. -/
theorem witness_ChunkingIsInvisible :
    (ready 0xfffffffd 64 noBytes).ST = .ready ∧
    ¬ exhausts (ready 0xfffffffd 64 noBytes)
      (List.replicate 50 (1 : Byte) ++ List.replicate 78 (2 : Byte)).length := by decide +kernel

theorem witness_TransformIsSelfInverse :
    KA.length = 32 ∧ (XN.length = 12 ∨ XN.length = 24) ∧
    (List.replicate 64 (7 : Byte)).length ≤ 64 * (0xFFFFFFFF - ((some 0xfffffffe : Option Word).getD 0).toNat) := by
  decide

theorem witness_StateDoesNotDependOnTheData :
    ([1, 2] : List Byte).length = ([3, 4] : List Byte).length := rfl

/-- A packet answered `OK`, one answered with an error, and a malformed one. -/
theorem witness_ResponseIsCodeThenPayload :
    State.reset.BUSY = false ∧
    Offered (sendPacket [0x05, 0, 0, 0] State.reset) [0x05, 0, 0, 0] [] ∧
    Offered (sendPacket ([0x02, 0, 0, 0] ++ List.replicate 16 0) State.reset)
      ([0x02, 0, 0, 0] ++ List.replicate 16 0) [] ∧
    Offered (sendPacket [0xff] State.reset) [0xff] [] := by decide

/-- The last clause's premise is met by a request past the end of the counter. -/
theorem witness_FailingCommandWritesOnlyErr :
    let s := sendPacket ([0x02, 0, 0, 0, 1, 0, 0, 0, 0, 0, 0, 0, 1, 0, 0, 0, 0, 0, 0, 0] ++ [0])
      (ready 0xffffffff 64 noBytes)
    Idle s ∧
    Offered s ([0x02, 0, 0, 0, 1, 0, 0, 0, 0, 0, 0, 0, 1, 0, 0, 0, 0, 0, 0, 0] ++ [0]) [] ∧
    ∃ t, step s = .next t ∧ t.ERR ≠ .ok ∧ t.ERR = .counterExhausted :=
  ⟨⟨rfl, rfl, rfl, rfl⟩, by decide, _, rfl, by decide, by decide⟩

theorem witness_LifecycleFollowsTheTable :
    nextTransaction [.beat ⟨0x05, false⟩, .reset] = .reset [] ∧
    State.reset.BUSY = false ∧ Offered (sendPacket [0x05, 0, 0, 0] State.reset) [0x05, 0, 0, 0] [] := by
  decide

theorem witness_OnlyInitAndZeroizeWriteTheKey :
    let s := sendPacket [0x05, 0, 0, 0] (ready 2 1 noBytes)
    ∃ t, step s = .next t ∧ (t.K ≠ s.K ∨ t.N ≠ s.N) :=
  ⟨_, rfl, .inl (by decide)⟩

theorem witness_CounterNeverGoesBack :
    Instr.xorks 1 [0] ≠ .zeroize ∧ ∀ ctr key nonce, Instr.xorks 1 [0] ≠ .init ctr key nonce :=
  ⟨Instr.noConfusion, fun _ _ _ => Instr.noConfusion⟩

/-- A state in the middle of a block meets the invariants; its next packet steps to a next state. -/
theorem midBlockClean_inv : Inv midBlockClean where
  idle := ⟨rfl, rfl, rfl, rfl⟩
  offset := by decide
  consumed i h := by
    have h : i < 3 := h
    simp only [midBlockClean, bufByte_discardByte]
    have : i = 0 ∨ i = 1 ∨ i = 2 := by omega
    rcases this with h | h | h <;> simp [h]
  empty h := Lifecycle.noConfusion h
  unconsumed _ _ := ⟨by decide, fun i h1 h2 => by
    have h1 : 3 ≤ i := h1
    simp only [midBlockClean, bufByte_discardByte]
    rw [if_neg (by omega), if_neg (by omega), if_neg (by omega)]
    rfl⟩

theorem witness_StepKeepsTheInvariants :
    Inv midBlockClean ∧ ∃ t, step midBlockClean = .next t := ⟨midBlockClean_inv, _, rfl⟩

/-! ## One step of each command that runs the permutation (last, since these take the longest) -/

/-- Row I3: the Extended variant. -/
theorem test_init_extended :
    stepsTo (sendPacket ([0x01, 0x00, 0x20, 0x18, 0, 0, 0, 0] ++ KB ++ XN) State.reset)
      { State.reset with
        K := #v[0xc0c08a4a, 0xba226229, 0xaa9f95fe, 0x5ba406be, 0xe4cea389, 0xe3f6fe44, 0xa55976d7, 0x32ee493f]
        N := #v[0x00000000, 0x53525150, 0x57565554]
        VAR := .extended
        ST := .ready
        rsp := [⟨0x00, true⟩] } = true := by decide +kernel

/-- Row X1: the first bytes of a stream. -/
theorem test_xorks_first_bytes :
    answers ([0x02, 0, 0, 0, 3, 0, 0, 0, 0, 0, 0, 0, 3, 0, 0, 0, 0, 0, 0, 0] ++ [0xaa, 0xbb, 0xcc])
      (ready 0 64 noBytes)
      [0x00, 0x93, 0x46, 0xe7] .ready .classic .ok 1 3 = true := by decide +kernel

/-- Row H1. -/
theorem test_hchacha :
    answers ([0x03, 0x00, 0x20, 0x10] ++ KA ++ [0, 0, 0, 9, 0, 0, 0, 0x4a, 0, 0, 0, 0, 0x31, 0x41, 0x59, 0x27])
      State.reset
      [0x00, 0x82, 0x41, 0x3b, 0x42, 0x27, 0xb2, 0x7b, 0xfe, 0xd3, 0x0e, 0x42, 0x50, 0x8a, 0x87, 0x7d, 0x73,
        0xa0, 0xf9, 0xe4, 0xd5, 0x8a, 0x74, 0xa8, 0x53, 0xc1, 0x2e, 0xc4, 0x13, 0x26, 0xd3, 0xec, 0xdc]
      .uninit .classic .ok 0 64 = true := by decide +kernel

/-- Row B1. -/
theorem test_block :
    answers ([0x04, 0x01, 0x20, 0x0c, 1, 0, 0, 0] ++ KA ++ [0, 0, 0, 9, 0, 0, 0, 0x4a, 0, 0, 0, 0])
      State.reset
      [0x00, 0x10, 0xf1, 0xe7, 0xe4, 0xd1, 0x3b, 0x59, 0x15, 0x50, 0x0f, 0xdd, 0x1f, 0xa3, 0x20, 0x71, 0xc4,
        0xc7, 0xd1, 0xf4, 0xc7, 0x33, 0xc0, 0x68, 0x03, 0x04, 0x22, 0xaa, 0x9a, 0xc3, 0xd4, 0x6c, 0x4e,
        0xd2, 0x82, 0x64, 0x46, 0x07, 0x9f, 0xaa, 0x09, 0x14, 0xc2, 0xd7, 0x05, 0xd9, 0x8b, 0x02, 0xa2,
        0xb5, 0x12, 0x9c, 0xd1, 0xde, 0x16, 0x4e, 0xb9, 0xcb, 0xd0, 0x83, 0xe8, 0xa2, 0x50, 0x3c, 0x4e]
      .uninit .classic .ok 0 64 = true := by decide +kernel

end Sys2Proof.Tests
end

section
/-! The reset values of spec/10_state.md R39. The reset state is the outcome of a reset event, so the laws of
`resetEvent` field by field speak of both ways to reset. -/

namespace Sys2Proof.Machine

theorem reset_eq_resetEvent : State.reset = resetEvent [] State.reset := rfl

/-- Settles O1: both ways to reset are a reset event, whose laws (`resetEvent_K` and so on) give each field;
a register of zeros holds 0 at every index, and the three codes of the reset values are 0. -/
theorem resetValuesOfEveryElement : Obligations.ResetValuesOfEveryElement := by
  unfold Obligations.ResetValuesOfEveryElement
  intro t ht
  obtain ⟨rest, s, rfl⟩ : ∃ rest s, t = resetEvent rest s := by
    rcases ht with rfl | hevent
    · exact ⟨[], State.reset, reset_eq_resetEvent⟩
    · exact hevent
  simp [variantCode, resultNumber, lifecycleCode]

end Sys2Proof.Machine
end

section
/-! One response to every packet (spec/20_memory.md R64, R65). The command stream is cut at the bytes marked
last, and every command ends in exactly one `respond`, before which no stream is touched. -/

namespace Sys2Proof.Machine

open Sys2Proof.Safety

/-! ### Cutting the command stream -/

theorem nextTransaction_of_last (b : Byte) (rest : List HostInput) :
    nextTransaction (.beat ⟨b, true⟩ :: rest) = .packet [b] rest := rfl

theorem nextTransaction_of_not_last (b : Byte) (p : List Byte) (inputs rest : List HostInput)
    (h : nextTransaction inputs = .packet p rest) :
    nextTransaction (.beat ⟨b, false⟩ :: inputs) = .packet (b :: p) rest := by
  simp [nextTransaction, h]

/-- The bytes sent as one packet are found as that packet, and what follows them is left. -/
theorem nextTransaction_packetBeats (p : List Byte) (rest : List HostInput) (hp : p ≠ []) :
    nextTransaction ((packetBeats p).map HostInput.beat ++ rest) = .packet p rest := by
  induction p with
  | nil => exact absurd rfl hp
  | cons b p ih =>
    cases p with
    | nil => exact nextTransaction_of_last b rest
    | cons c p => exact nextTransaction_of_not_last b (c :: p) _ rest (ih (List.cons_ne_nil c p))

/-- A packet that is found has the byte it was found at: either that byte is the last one, or it stands
before the packet found after it. -/
theorem nextTransaction_packet_ne_nil (inputs rest : List HostInput) (p : List Byte)
    (h : nextTransaction inputs = .packet p rest) : p ≠ [] := by
  rintro rfl
  cases inputs with
  | nil => cases h
  | cons x inputs =>
    cases x with
    | reset => cases h
    | beat b =>
      simp only [nextTransaction] at h
      split at h
      · cases h
      · split at h <;> cases h

/-! ### Every command ends in one response -/

/-- The outcome is the end of a command begun in `s`: one `respond`, with both streams until then as they
were in `s`. -/
def RespondsFrom (s : State) (o : Host.Outcome State Fault Refusal) : Prop :=
  ∃ rc payload t, o = .next (respond rc payload t) ∧ t.input = s.input ∧ t.rsp = s.rsp

theorem respondsFrom_respond {s t : State} (rc : ResultCode) (payload : List Byte)
    (hin : t.input = s.input) (hrsp : t.rsp = s.rsp) : RespondsFrom s (.next (respond rc payload t)) :=
  ⟨rc, payload, t, rfl, hin, hrsp⟩

theorem respondsFrom_raise (s : State) (e : ResultCode) : RespondsFrom s (.next (raise e s)) :=
  respondsFrom_respond e [] rfl rfl

@[simp] theorem blockFn_input (kw : Vector Word 8) (c : Word) (nw : Vector Word 3) (s : State) :
    (blockFn kw c nw s).2.input = s.input := by rw [blockFn_eq]

@[simp] theorem blockFn_rsp (kw : Vector Word 8) (c : Word) (nw : Vector Word 3) (s : State) :
    (blockFn kw c nw s).2.rsp = s.rsp := by rw [blockFn_eq]

@[simp] theorem hchacha20_input (kw : Vector Word 8) (hw : Vector Word 4) (s : State) :
    (hchacha20 kw hw s).2.input = s.input := by rw [hchacha20_eq]

@[simp] theorem hchacha20_rsp (kw : Vector Word 8) (hw : Vector Word 4) (s : State) :
    (hchacha20 kw hw s).2.rsp = s.rsp := by rw [hchacha20_eq]

theorem execInit_respondsFrom (ctr : Option Word) (key nonce : List Byte) (s : State) :
    RespondsFrom s (execInit ctr key nonce s) := by
  unfold execInit
  split_ifs
  case pos => exact respondsFrom_raise s _
  case pos => exact respondsFrom_respond .ok [] rfl rfl
  case pos => exact respondsFrom_respond .ok [] (by simp [initExtended]) (by simp [initExtended])
  case neg => exact respondsFrom_raise s _

theorem execXorks_respondsFrom (olen : Nat) (data : List Byte) (s : State) :
    RespondsFrom s (execXorks olen data s) := by
  unfold execXorks
  dsimp only
  split_ifs
  case pos => exact respondsFrom_raise s _
  case pos => exact respondsFrom_raise s _
  case pos => exact respondsFrom_raise s _
  case pos => exact respondsFrom_respond .ok [] rfl rfl
  case pos => exact respondsFrom_respond .counterExhausted [] rfl rfl
  case neg =>
    obtain ⟨-, -, -, -, -, -, hin, hrsp⟩ := xorBytes_keeps data s
    exact respondsFrom_respond .ok _ hin hrsp

theorem execHchacha_respondsFrom (key nonce : List Byte) (s : State) :
    RespondsFrom s (execHchacha key nonce s) := by
  unfold execHchacha
  split_ifs
  case pos => exact respondsFrom_raise s _
  case pos => exact respondsFrom_raise s _
  case neg => exact respondsFrom_respond .ok _ (hchacha20_input ..) (hchacha20_rsp ..)

theorem execBlock_respondsFrom (ctr : Option Word) (key nonce : List Byte) (s : State) :
    RespondsFrom s (execBlock ctr key nonce s) := by
  unfold execBlock
  split_ifs
  case pos => exact respondsFrom_raise s _
  case pos => exact respondsFrom_raise s _
  case neg => exact respondsFrom_respond .ok _ (blockFn_input ..) (blockFn_rsp ..)

theorem exec_respondsFrom (i : Instr) (s : State) : RespondsFrom s (exec i s) := by
  cases i with
  | init ctr key nonce => exact execInit_respondsFrom ctr key nonce s
  | xorks olen data => exact execXorks_respondsFrom olen data s
  | hchacha key nonce => exact execHchacha_respondsFrom key nonce s
  | block ctr key nonce => exact execBlock_respondsFrom ctr key nonce s
  | zeroize => exact respondsFrom_respond .ok [] (clearContext_input s) (clearContext_rsp s)

/-- A packet that does not decode is answered too (R82). -/
theorem runPacket_respondsFrom (p : List Byte) (s : State) : RespondsFrom s (runPacket p s) := by
  cases hd : decode p with
  | ok i => exact runPacket_of_ok p i s hd ▸ exec_respondsFrom i s
  | error e => exact runPacket_of_error p e s hd ▸ respondsFrom_respond .illegalCommand [] rfl rfl

/-- Settles O6: the packet is found at the head of the inputs and taken; what runs then ends in one
`respond`, whose laws give the conclusion field by field. -/
theorem everyPacketGetsOneResponse : Obligations.EveryPacketGetsOneResponse := by
  unfold Obligations.EveryPacketGetsOneResponse
  refine ⟨?_, nextTransaction_packet_ne_nil⟩
  rintro s p rest hbusy ⟨hp, hinput⟩
  have hfound : nextTransaction s.input = .packet p rest := by
    rw [hinput, nextTransaction_packetBeats p rest hp]
  obtain ⟨rc, payload, t, hrun, hin, hrsp⟩ := runPacket_respondsFrom p (acceptPacket rest s)
  refine ⟨respond rc payload t, payload, ?_, hin, rfl, ?_⟩
  · rw [step_of_packet s p rest hbusy hfound, hrun]
  · rw [respond_rsp, respond_ERR, hrsp, acceptPacket_rsp]

end Sys2Proof.Machine
end

section
/-! What the decoder accepts (spec/30_encoding.md R81, R88). The header fields of R72 are read off the packet's
bytes; each format then fits under its own conditions, and the opcode selects the format. Both the decoder and
the six conditions of R81 come to `4 ≤ p.length`, clear reserved bits and `FormatFits`. -/

namespace Sys2Proof.Machine

open Sys2Proof.Laws.EncodeHeader

/-! ### The header fields as bytes of the packet -/

@[simp] theorem headerOpc_headerWord (p : List Byte) : headerOpc (headerWord p) = byteAt p 0 :=
  headerOpc_le32 ..

@[simp] theorem headerCv_headerWord (p : List Byte) :
    headerCv (headerWord p) = (byteAt p 1).getLsbD 0 := by
  conv_rhs => rw [← wordByte_le32_one (byteAt p 0) (byteAt p 1) (byteAt p 2) (byteAt p 3)]
  simp [headerCv, headerWord, wordByte]

@[simp] theorem headerReserved_headerWord (p : List Byte) :
    headerReserved (headerWord p) = (byteAt p 1).extractLsb' 1 7 := by
  conv_rhs => rw [← wordByte_le32_one (byteAt p 0) (byteAt p 1) (byteAt p 2) (byteAt p 3)]
  ext k hk
  have hbit : 1 + k < 8 := by omega
  simp [headerReserved, headerWord, wordByte, hbit, ← Nat.add_assoc]

@[simp] theorem headerKlen_headerWord (p : List Byte) :
    headerKlen (headerWord p) = (byteAt p 2).toNat := headerKlen_le32 ..

@[simp] theorem headerNlen_headerWord (p : List Byte) :
    headerNlen (headerWord p) = (byteAt p 3).toNat := headerNlen_le32 ..

/-! ### What each format accepts -/

/-- A decoding that gives a result and no reason to reject. -/
def Accepted {α : Type} (r : Except Illegal α) : Prop := ∃ a, r = .ok a

@[simp] theorem accepted_ok {α : Type} (a : α) : Accepted (.ok a) := ⟨a, rfl⟩

@[simp] theorem not_accepted_error {α : Type} (e : Illegal) : ¬ Accepted (.error e : Except Illegal α) := nofun

/-- A check of the decoder: past it, the packet has passed it. -/
@[simp] theorem accepted_check {α : Type} (c : Prop) [Decidable c] (e : Illegal) (r : Except Illegal α) :
    Accepted (if c then .error e else r) ↔ ¬ c ∧ Accepted r := by
  by_cases hc : c <;> simp [hc]

/-- Conditions 5 and 6 of R81 for format K. -/
def FormatKFits (p : List Byte) : Prop :=
  p.length = 8 + (byteAt p 2).toNat + (byteAt p 3).toNat ∧
  ((byteAt p 1).getLsbD 0 = true ∨ slice p 4 4 = [0, 0, 0, 0])

/-- Conditions 4 and 5 of R81 for format H. -/
def FormatHFits (p : List Byte) : Prop :=
  (byteAt p 1).getLsbD 0 = false ∧ p.length = 4 + (byteAt p 2).toNat + (byteAt p 3).toNat

/-- Condition 4 of R81 for the formats X and Z, which use no header field. -/
def HeaderUnused (p : List Byte) : Prop :=
  (byteAt p 1).getLsbD 0 = false ∧ (byteAt p 2).toNat = 0 ∧ (byteAt p 3).toNat = 0

/-- Conditions 4 and 5 of R81 for format X. -/
def FormatXFits (p : List Byte) : Prop :=
  HeaderUnused p ∧ 20 ≤ p.length ∧ p.length = 20 + le64 (slice p 4 8)

/-- Conditions 4 and 5 of R81 for format Z. -/
def FormatZFits (p : List Byte) : Prop := HeaderUnused p ∧ p.length = 4

theorem accepted_decodeFormatK (p : List Byte) : Accepted (decodeFormatK p) ↔ FormatKFits p := by
  simp only [decodeFormatK, accepted_check, accepted_ok]
  simp [FormatKFits, or_iff_not_imp_left]

theorem accepted_decodeInit (p : List Byte) : Accepted (decodeInit p) ↔ FormatKFits p := by
  rw [← accepted_decodeFormatK, decodeInit]
  cases decodeFormatK p <;> simp

theorem accepted_decodeBlock (p : List Byte) : Accepted (decodeBlock p) ↔ FormatKFits p := by
  rw [← accepted_decodeFormatK, decodeBlock]
  cases decodeFormatK p <;> simp

theorem accepted_decodeHchacha (p : List Byte) : Accepted (decodeHchacha p) ↔ FormatHFits p := by
  simp only [decodeHchacha, accepted_check, accepted_ok]
  simp [FormatHFits]

theorem accepted_decodeXorks (p : List Byte) : Accepted (decodeXorks p) ↔ FormatXFits p := by
  simp only [decodeXorks, accepted_check, accepted_ok]
  simp [FormatXFits, HeaderUnused]

theorem accepted_decodeZeroize (p : List Byte) : Accepted (decodeZeroize p) ↔ FormatZFits p := by
  simp only [decodeZeroize, accepted_check, accepted_ok]
  simp [FormatZFits, HeaderUnused]

/-! ### The opcode selects the format -/

/-- The opcode is one of the five of R70, and the packet fits that command's format. -/
def FormatFits (p : List Byte) : Prop :=
  byteAt p 0 = 0x01 ∧ FormatKFits p ∨ byteAt p 0 = 0x04 ∧ FormatKFits p ∨
  byteAt p 0 = 0x03 ∧ FormatHFits p ∨ byteAt p 0 = 0x02 ∧ FormatXFits p ∨
  byteAt p 0 = 0x05 ∧ FormatZFits p

theorem accepted_decode (p : List Byte) :
    Accepted (decode p) ↔ 4 ≤ p.length ∧ (byteAt p 1).extractLsb' 1 7 = 0 ∧ FormatFits p := by
  simp only [decode, accepted_check, headerReserved_headerWord, headerOpc_headerWord, not_lt, ne_eq, not_not]
  refine and_congr_right fun _ => and_congr_right fun _ => ?_
  unfold FormatFits
  split_ifs with hinit hblock hhchacha hxorks hzeroize
  case pos => simp [hinit, accepted_decodeInit]
  case pos => simp [hblock, accepted_decodeBlock]
  case pos => simp [hhchacha, accepted_decodeHchacha]
  case pos => simp [hxorks, accepted_decodeXorks]
  case pos => simp [hzeroize, accepted_decodeZeroize]
  case neg => simp only [hinit, hblock, hhchacha, hxorks, hzeroize, false_and, or_false, not_accepted_error]

/-- Condition 2 of R81. -/
theorem opcode_defined_of_packetWellFormed (p : List Byte) (h : packetWellFormed p = true) :
    byteAt p 0 = 0x01 ∨ byteAt p 0 = 0x02 ∨ byteAt p 0 = 0x03 ∨ byteAt p 0 = 0x04 ∨ byteAt p 0 = 0x05 := by
  simp only [packetWellFormed, Bool.and_eq_true, Bool.or_eq_true, beq_iff_eq, and_assoc, or_assoc] at h
  obtain ⟨-, hopc, -⟩ := h
  exact hopc

theorem packetWellFormed_iff (p : List Byte) :
    packetWellFormed p = true ↔
      4 ≤ p.length ∧ (byteAt p 1).extractLsb' 1 7 = 0 ∧ FormatFits p := by
  unfold FormatFits
  by_cases hinit : byteAt p 0 = 0x01
  · simp [packetWellFormed, FormatKFits, and_assoc, hinit]
  by_cases hblock : byteAt p 0 = 0x04
  · simp [packetWellFormed, FormatKFits, and_assoc, hblock]
  by_cases hhchacha : byteAt p 0 = 0x03
  · simp [packetWellFormed, FormatHFits, and_assoc, hhchacha]
  by_cases hxorks : byteAt p 0 = 0x02
  · simp [packetWellFormed, FormatXFits, HeaderUnused, and_assoc, hxorks]
  by_cases hzeroize : byteAt p 0 = 0x05
  · simp [packetWellFormed, FormatZFits, HeaderUnused, and_assoc, hzeroize]
  have hmal := opcode_defined_of_packetWellFormed p
  simp only [hinit, hblock, hhchacha, hxorks, hzeroize, false_and, or_false, and_false, iff_false] at hmal ⊢
  exact hmal

/-- Settles O13: the decoder's checks and the six conditions both come to a whole header, clear reserved bits and
a packet that fits the format its opcode selects. -/
theorem decoderAcceptsExactlyWellFormedPackets : Obligations.DecoderAcceptsExactlyWellFormedPackets := by
  unfold Obligations.DecoderAcceptsExactlyWellFormedPackets
  exact fun p => (accepted_decode p).trans (packetWellFormed_iff p).symm

end Sys2Proof.Machine
end

section
/-! The answer to a malformed packet (spec/30_encoding.md R82). -/

namespace Sys2Proof.Machine

open Sys2Proof.Safety

/-- A packet offered to a core that runs no command is the step's packet (R58, R64). -/
theorem step_of_offered (s : State) (p : List Byte) (rest : List HostInput) (hbusy : s.BUSY = false)
    (hoffer : Offered s p rest) : step s = runPacket p (acceptPacket rest s) := by
  obtain ⟨hp, hinput⟩ := hoffer
  exact step_of_packet s p rest hbusy (by rw [hinput, nextTransaction_packetBeats p rest hp])

/-- A response between commands: the transient state it clears is clear already. -/
theorem respond_acceptPacket_of_idle (s : State) (rc : ResultCode) (payload : List Byte)
    (rest : List HostInput) (hidle : Idle s) :
    respond rc payload (acceptPacket rest s) =
      { s with input := rest, ERR := rc, rsp := s.rsp ++ packetBeats (resultByte rc :: payload) } := by
  obtain ⟨hbusy, hworking, hsaved, hrounds⟩ := hidle
  simp only [respond, acceptPacket, hbusy, hworking, hsaved, hrounds]

/-- A packet that fails R81 is rejected, whatever the reason. -/
theorem decode_error_of_malformed (p : List Byte) (h : packetWellFormed p = false) :
    ∃ e, decode p = .error e := by
  cases hd : decode p with
  | error e => exact ⟨e, rfl⟩
  | ok i => simp [(decoderAcceptsExactlyWellFormedPackets p).mp ⟨i, hd⟩] at h

/-- The opcodes R82 reserves fail condition 2 of R81. -/
theorem malformed_of_reserved_opcode (p : List Byte) (h : byteAt p 0 = 0 ∨ 6 ≤ (byteAt p 0).toNat) :
    packetWellFormed p = false := by
  refine Bool.eq_false_iff.mpr fun hwf => ?_
  rcases opcode_defined_of_packetWellFormed p hwf with hopc | hopc | hopc | hopc | hopc <;>
    simp [hopc] at h

/-- Settles O5: a malformed packet is rejected by the decoder, so the step is `illegalCommand`, which between
commands writes `ERR` and the response byte 05 only. -/
theorem malformedPacketIsIllegalCommand : Obligations.MalformedPacketIsIllegalCommand := by
  unfold Obligations.MalformedPacketIsIllegalCommand
  refine ⟨fun s p rest hidle hoffer hmal => ?_, malformed_of_reserved_opcode⟩
  obtain ⟨e, he⟩ := decode_error_of_malformed p hmal
  rw [step_of_offered s p rest hidle.busy hoffer, runPacket_of_error p e _ he,
    respond_acceptPacket_of_idle s _ _ rest hidle]
  rfl

end Sys2Proof.Machine
end

section
/-! The response to every packet (spec/30_encoding.md R85): a result byte, and the command's own payload when the
code is 0. For `XORKS` the payload is what the byte-by-byte consumption of R190 gives, as one xor with the
keystream bytes the request meets. -/

namespace Sys2Proof.Machine

open Sys2Proof.Safety

/-! ### The bytes of a request -/

/-- Refilling an empty buffer moves the next block into it and leaves the bytes ahead as they are. -/
theorem requestByte_refill (s : State) (h : s.OFF = 64) (j : Nat) :
    requestByte (refill s) j = requestByte s j := by
  have hoff : s.OFF.val = 64 := by rw [h]; rfl
  simp only [requestByte, refill_eq, hoff, Fin.val_zero]
  by_cases hj : j < 64
  · simp [hj, Nat.div_eq_of_lt, Nat.mod_eq_of_lt]
  · have hdiv : j / 64 = (j - 64) / 64 + 1 := by omega
    have hmod : j % 64 = (j - 64) % 64 := by omega
    simp [hj, hdiv, hmod, BitVec.ofNat_add, BitVec.add_assoc, BitVec.add_comm]

/-- With a byte in the buffer, `XORBYTE` meets the first byte of the request and leaves the request at the next. -/
theorem xorByte_requestByte_of_nonempty (x : Byte) (s : State) (h : s.OFF ≠ 64) :
    (xorByte x s).1 = x ^^^ requestByte s 0 ∧
    ∀ j, requestByte (xorByte x s).2 j = requestByte s (j + 1) := by
  have hoff : s.OFF.val < 64 := by omega
  rw [xorByte_of_nonempty x s h]
  refine ⟨by simp [requestByte, xor8, hoff], fun j => ?_⟩
  have hleft : 64 - (s.OFF.val + 1) = 64 - s.OFF.val - 1 := by omega
  have hlt : j < 64 - s.OFF.val - 1 ↔ j + 1 < 64 - s.OFF.val := by omega
  have hidx : s.OFF.val + 1 + j = s.OFF.val + (j + 1) := by omega
  have hahead : s.OFF.val + (j + 1) ≠ s.OFF.val := by omega
  have hpast : j - (64 - s.OFF.val - 1) = j + 1 - (64 - s.OFF.val) := by omega
  simp only [requestByte, offNext_val _ hoff, bufByte_discardByte, hleft, hlt, hidx, if_neg hahead, hpast]

/-- The same in every state: an empty buffer is refilled first, which the request does not see. -/
theorem xorByte_requestByte (x : Byte) (s : State) :
    (xorByte x s).1 = x ^^^ requestByte s 0 ∧
    ∀ j, requestByte (xorByte x s).2 j = requestByte s (j + 1) := by
  by_cases hempty : s.OFF = 64
  · have hrefilled : (refill s).OFF ≠ 64 := by simp [refill_eq]
    rw [xorByte_of_empty x s hempty]
    simpa only [requestByte_refill s hempty] using xorByte_requestByte_of_nonempty x (refill s) hrefilled
  · exact xorByte_requestByte_of_nonempty x s hempty

/-- The output of serving `data` is `data` combined with the bytes of the request (R59, R185). -/
theorem fst_xorBytes (data : List Byte) (s : State) :
    (xorBytes data s).1 = xorWith (requestByte s) data := by
  induction data generalizing s with
  | nil => rfl
  | cons x data ih =>
    obtain ⟨hbyte, hnext⟩ := xorByte_requestByte x s
    simp [xorBytes_cons, ih, xorWith, hbyte, hnext, List.mapIdx_cons]

/-! ### What each command answers -/

/-- The outcome is a response from `s` with the payload of R85: `payload` if the code is 0, and none else. -/
def Answers (payload : List Byte) (s : State) (o : Host.Outcome State Fault Refusal) : Prop :=
  ∃ rc t, o = .next (respond rc (if rc = .ok then payload else []) t) ∧ t.rsp = s.rsp

theorem answers_ok {payload : List Byte} {s t : State} (hrsp : t.rsp = s.rsp) :
    Answers payload s (.next (respond .ok payload t)) := ⟨.ok, t, rfl, hrsp⟩

theorem answers_error {payload : List Byte} {s t : State} (e : ResultCode) (he : e ≠ .ok)
    (hrsp : t.rsp = s.rsp) : Answers payload s (.next (respond e [] t)) :=
  ⟨e, t, by rw [if_neg he], hrsp⟩

theorem execInit_answers (ctr : Option Word) (key nonce : List Byte) (s : State) :
    Answers [] s (execInit ctr key nonce s) := by
  unfold execInit
  split_ifs
  case pos => exact answers_error .invalidKeySize nofun rfl
  case pos => exact answers_ok rfl
  case pos => exact answers_ok (by simp [initExtended])
  case neg => exact answers_error .invalidNonceSize nofun rfl

theorem execXorks_answers (olen : Nat) (data : List Byte) (s : State) :
    Answers (xorWith (requestByte s) data) s (execXorks olen data s) := by
  unfold execXorks
  dsimp only
  split_ifs with huninit hlengths hexhausted hnone hadmissible
  case pos => exact answers_error .notReady nofun rfl
  case pos => exact answers_error .bufferLengthMismatch nofun rfl
  case pos => exact answers_error .counterExhausted nofun rfl
  case pos =>
    rw [List.eq_nil_of_length_eq_zero hnone]
    exact answers_ok rfl
  case pos => exact answers_error .counterExhausted nofun rfl
  case neg =>
    obtain ⟨-, -, -, -, -, -, -, hrsp⟩ := xorBytes_keeps data s
    rw [← fst_xorBytes data s]
    exact answers_ok hrsp

theorem execHchacha_answers (key nonce : List Byte) (s : State) :
    Answers (ser32s (subkeyWords (le32s 8 key) (le32s 4 nonce))) s (execHchacha key nonce s) := by
  unfold execHchacha
  split_ifs
  case pos => exact answers_error .invalidKeySize nofun rfl
  case pos => exact answers_error .invalidNonceSize nofun rfl
  case neg =>
    simp only [hchacha20_eq]
    exact answers_ok rfl

theorem execBlock_answers (ctr : Option Word) (key nonce : List Byte) (s : State) :
    Answers (blockBytes (le32s 8 key) (ctr.getD 0) (le32s 3 nonce)).toList s
      (execBlock ctr key nonce s) := by
  unfold execBlock
  split_ifs
  case pos => exact answers_error .invalidKeySize nofun rfl
  case pos => exact answers_error .invalidNonceSize nofun rfl
  case neg =>
    simp only [blockFn_eq]
    exact answers_ok rfl

theorem exec_answers (i : Instr) (s : State) : Answers (okPayload i s) s (exec i s) := by
  cases i with
  | init ctr key nonce => exact execInit_answers ctr key nonce s
  | xorks olen data => exact execXorks_answers olen data s
  | hchacha key nonce => exact execHchacha_answers key nonce s
  | block ctr key nonce => exact execBlock_answers ctr key nonce s
  | zeroize => exact answers_ok (clearContext_rsp s)

/-- Taking the packet changes nothing a payload is computed from. -/
theorem okPayload_acceptPacket (i : Instr) (s : State) (rest : List HostInput) :
    okPayload i (acceptPacket rest s) = okPayload i s := by
  cases i <;> rfl

/-! ### The result byte -/

theorem resultByte_code (rc : ResultCode) : (resultByte rc).extractLsb' 0 3 = resultNumber rc := by
  cases rc <;> rfl

theorem resultByte_upper (rc : ResultCode) : (resultByte rc).extractLsb' 3 5 = 0 := by
  cases rc <;> rfl

theorem resultByte_eq_zero_iff (rc : ResultCode) : resultByte rc = 0 ↔ rc = .ok := by
  cases rc <;> decide

/-- The response to a packet: the payload is the decoded command's if the code is `OK`, and none else. -/
theorem runPacket_answers (p : List Byte) (s : State) :
    ∃ rc t payload, runPacket p s = .next (respond rc payload t) ∧ t.rsp = s.rsp ∧
      (rc ≠ .ok → payload = []) ∧ (rc = .ok → ∃ i, decode p = .ok i ∧ payload = okPayload i s) := by
  cases hd : decode p with
  | ok i =>
    obtain ⟨rc, t, hexec, hrsp⟩ := exec_answers i s
    exact ⟨rc, t, _, runPacket_of_ok p i s hd ▸ hexec, hrsp, fun h => if_neg h,
      fun h => ⟨i, rfl, if_pos h⟩⟩
  | error e =>
    exact ⟨.illegalCommand, s, [], runPacket_of_error p e s hd, rfl, fun _ => rfl, nofun⟩

/-- Settles O48: the packet is run to one response, whose byte is 0 exactly for `OK`; its payload is then the
decoded command's, computed from what taking the packet left unchanged. -/
theorem responseIsCodeThenPayload : Obligations.ResponseIsCodeThenPayload := by
  unfold Obligations.ResponseIsCodeThenPayload
  intro s p rest hbusy hoffer
  obtain ⟨rc, t, payload, hrun, hrsp, herror, hok⟩ := runPacket_answers p (acceptPacket rest s)
  refine ⟨respond rc payload t, resultByte rc, payload, ?_, ?_, resultByte_code rc, resultByte_upper rc, ?_, ?_⟩
  · rw [step_of_offered s p rest hbusy hoffer, hrun]
  · rw [respond_rsp, hrsp, acceptPacket_rsp]
  · rwa [ne_eq, resultByte_eq_zero_iff]
  · simpa only [resultByte_eq_zero_iff, okPayload_acceptPacket] using hok

end Sys2Proof.Machine
end

section
/-! The layout of `INITSTATE` (spec/40_state_init.md R100, R102): one lemma per group of words. -/

namespace Sys2Proof.Machine

variable (kw : Vector Word 8) (ctr : Word) (nw : Vector Word 3)

theorem initStateWords_constant (i : Fin 4) : (initStateWords kw ctr nw)[i.val] = constantWords[i] := by
  fin_cases i <;> rfl

theorem initStateWords_key (i : Fin 8) : (initStateWords kw ctr nw)[4 + i.val] = kw[i] := by
  fin_cases i <;> rfl

theorem initStateWords_counter : (initStateWords kw ctr nw)[12] = ctr := rfl

theorem initStateWords_nonce (i : Fin 3) : (initStateWords kw ctr nw)[13 + i.val] = nw[i] := by
  fin_cases i <;> rfl

/-- Apart from `W`, the state is the one INITSTATE started from. -/
theorem initState_frame (s : State) : { initState kw ctr nw s with W := s.W } = s := rfl

/-- Settles O16: the words of each group are those of the layout, which INITSTATE leaves in `W` and nowhere else. -/
theorem initStateLaysOutTheWords : Obligations.InitStateLaysOutTheWords := by
  unfold Obligations.InitStateLaysOutTheWords
  intro kw ctr nw s
  rw [initState_W]
  exact ⟨initStateWords_constant kw ctr nw, initStateWords_key kw ctr nw, initStateWords_counter kw ctr nw,
    initStateWords_nonce kw ctr nw, initState_frame kw ctr nw s⟩

end Sys2Proof.Machine
end

section
/-! The permutation and the block function (spec/41_permutation.md): the quarter round as two halves of one shape,
`PERM` as alternating passes, and the bytes of the serialized block. -/

namespace Sys2Proof.Machine

/-! ### The quarter round -/

/-- Rotation by shifts is the library's rotation, for the amounts R11 allows. -/
theorem rotl32_eq_rotateLeft (v : Word) (n : Nat) (h : n < 32) : rotl32 v n = v.rotateLeft n := by
  rw [rotl32, BitVec.rotateLeft_def, Nat.mod_eq_of_lt h]

/-- The first six of the twelve steps of `QR` (R111), for rotations by `m` and `n`: with 16 and 12 they are steps 1
to 6, with 8 and 7 steps 7 to 12. -/
def halfRound (a b c d : Fin 16) (m n : Nat) (w : Vector Word 16) : Vector Word 16 :=
  let w := w.set a (add32 w[a] w[b])
  let w := w.set d (xor32 w[d] w[a])
  let w := w.set d (rotl32 w[d] m)
  let w := w.set c (add32 w[c] w[d])
  let w := w.set b (xor32 w[b] w[c])
  w.set b (rotl32 w[b] n)

theorem quarterRound_eq_halfRound (a b c d : Fin 16) (w : Vector Word 16) :
    quarterRound a b c d w = halfRound a b c d 8 7 (halfRound a b c d 16 12 w) := by
  unfold quarterRound
  rfl

/-- A word after a half round on four distinct words: the last write to it counts, and the
writes to the other words are not seen. -/
theorem getElem_halfRound {a b c d : Fin 16} (hab : a ≠ b) (hac : a ≠ c) (had : a ≠ d) (hbc : b ≠ c) (hbd : b ≠ d)
    (hcd : c ≠ d) {m n : Nat} (hm : m < 32) (hn : n < 32) (w : Vector Word 16) (i : Fin 16) :
    let a1 := w[a] + w[b]
    let d1 := (w[d] ^^^ a1).rotateLeft m
    let c1 := w[c] + d1
    let b1 := (w[b] ^^^ c1).rotateLeft n
    (halfRound a b c d m n w)[i] =
      if i = a then a1 else if i = b then b1 else if i = c then c1 else if i = d then d1 else w[i] := by
  simp only [halfRound, getElem_set_fin, rotl32_eq_rotateLeft _ _ hm, rotl32_eq_rotateLeft _ _ hn, add32, xor32,
    if_true, if_neg hab, if_neg hac, if_neg had, if_neg hbc.symm, if_neg hbd.symm, if_neg hcd.symm,
    eq_comm (b := i)]
  by_cases hia : i = a
  · subst hia
    simp only [if_true, if_neg hab, if_neg hac, if_neg had]
  · simp only [if_neg hia]
    split_ifs <;> rfl

/-- Settles O18: a quarter round is a half round read after another, word by word. -/
theorem quarterRoundMixesFourWords : Obligations.QuarterRoundMixesFourWords := by
  unfold Obligations.QuarterRoundMixesFourWords
  intro a b c d w hab hac had hbc hbd hcd a1 d1 c1 b1 a2 d2 c2 b2 i
  have hfirst := getElem_halfRound hab hac had hbc hbd hcd (m := 16) (n := 12) (by decide) (by decide) w
  rw [quarterRound_eq_halfRound, getElem_halfRound hab hac had hbc hbd hcd (by decide) (by decide)]
  simp only [hfirst, if_true, if_neg hab.symm, if_neg hac.symm, if_neg hbc.symm, if_neg had.symm, if_neg hbd.symm,
    if_neg hcd.symm]
  split_ifs <;> rfl

/-! ### The permutation -/

theorem repeatTimes_eq_iterate {α : Type} (f : α → α) (n : Nat) (x : α) : repeatTimes f n x = f^[n] x := by
  induction n generalizing x with
  | zero => rfl
  | succ n ih => rw [repeatTimes_succ, ih, Function.iterate_succ_apply]

/-- Round `r` of the permutation: a column pass when `r` is even, a diagonal pass when it is odd (R116). -/
def alternatingRound (w : Vector Word 16) (r : Nat) : Vector Word 16 :=
  if r % 2 = 0 then columnRound w else diagonalRound w

theorem iterate_doubleRound (n : Nat) (w : Vector Word 16) :
    doubleRound^[n] w = (List.range (2 * n)).foldl alternatingRound w := by
  induction n with
  | zero => rfl
  | succ n ih =>
    rw [Function.iterate_succ_apply', ih, Nat.mul_succ, List.range_succ, List.range_succ]
    simp [alternatingRound, doubleRound]

theorem permWords_eq_foldl (w : Vector Word 16) :
    permWords w = (List.range 20).foldl alternatingRound w := by
  rw [permWords, repeatTimes_eq_iterate, iterate_doubleRound, Config.doubleRounds]

/-- Settles O20: ten double rounds are twenty alternating rounds, and the response clears `RND`. -/
theorem permIsTwentyAlternatingRounds : Obligations.PermIsTwentyAlternatingRounds := by
  unfold Obligations.PermIsTwentyAlternatingRounds
  intro s
  refine ⟨?_, respond_RND (perm s)⟩
  rw [perm_eq, permWords_eq_foldl]
  rfl

/-! ### Feed-forward and serialization -/

/-- Apart from `W`, the state is the one FEEDFWD started from. -/
theorem feedForward_frame (s : State) : { feedForward s with W := s.W } = s := by
  simp only [feedForward]

/-- Settles O22: a word of the sum is the sum of the words. -/
theorem feedForwardAddsWordByWord : Obligations.FeedForwardAddsWordByWord := by
  unfold Obligations.FeedForwardAddsWordByWord
  intro s
  refine ⟨fun i => ?_, feedForward_frame s⟩
  rw [feedForward_W, Fin.getElem_fin, getElem_feedForwardWords]
  exact BitVec.toNat_add ..

theorem wordByte_eq_ofNat (v : Word) (k : Nat) : wordByte v k = BitVec.ofNat 8 (v.toNat / 2 ^ (8 * k)) := by
  rw [wordByte, BitVec.extractLsb', Nat.shiftRight_eq_div_pow]

theorem getElem_ser_word (w : Vector Word 16) (j : Fin 16) (k : Fin 4) :
    (ser w)[4 * j.val + k.val] = wordByte w[j] k := by
  have hdiv : (4 * j.val + k.val) / 4 = j.val := by omega
  have hmod : (4 * j.val + k.val) % 4 = k.val := by omega
  simp [hdiv, hmod]

theorem toList_ser (w : Vector Word 16) : (ser w).toList = ser32s w := by
  apply List.ext_getElem (by simp)
  intro i hi hbound
  have hi : i < 64 := by simpa using hi
  have hword := byteAt_ser32s w (i / 4) (i % 4) (by omega) (by omega)
  rw [Nat.div_add_mod, byteAt, List.getD_eq_getElem _ _ hbound] at hword
  simpa using hword.symm

/-- Settles O23: a byte of SER is the byte of its word, which is a quotient by a power of 256. -/
theorem serializationIsLittleEndian : Obligations.SerializationIsLittleEndian := by
  unfold Obligations.SerializationIsLittleEndian
  intro w
  refine ⟨fun j k => ?_, toList_ser w⟩
  rw [getElem_ser_word, wordByte_eq_ofNat]

/-! ### The block function and `BLOCK` -/

theorem blockFn_fst (kw : Vector Word 8) (ctr : Word) (nw : Vector Word 3) (s : State) :
    (blockFn kw ctr nw s).1 = blockBytes kw ctr nw := by
  rw [blockFn_eq]

/-- Apart from the transient registers, the state is the one BLOCKFN started from. -/
theorem blockFn_frame (kw : Vector Word 8) (ctr : Word) (nw : Vector Word 3) (s : State) :
    { (blockFn kw ctr nw s).2 with W := s.W, S := s.S, RND := s.RND } = s := by
  rw [blockFn_eq]

/-- Settles O24: in every state the bytes are `blockBytes` of the operands. -/
theorem blockFunctionDependsOnItsOperandsOnly : Obligations.BlockFunctionDependsOnItsOperandsOnly := by
  unfold Obligations.BlockFunctionDependsOnItsOperandsOnly
  intro kw ctr nw s s'
  refine ⟨?_, rfl, blockFn_frame kw ctr nw s⟩
  rw [blockFn_fst, blockFn_fst]

theorem exec_block (ctr : Option Word) (key nonce : List Byte) (s : State) :
    exec (.block ctr key nonce) s = execBlock ctr key nonce s := rfl

theorem keySizeOk_eq_false_iff (key : List Byte) : keySizeOk key = false ↔ key.length ≠ 32 := by
  simp [keySizeOk]

/-- The response hides what BLOCKFN left in the transient registers. -/
theorem respond_blockFn (rc : ResultCode) (payload : List Byte) (kw : Vector Word 8) (ctr : Word)
    (nw : Vector Word 3) (s : State) :
    respond rc payload (blockFn kw ctr nw s).2 = respond rc payload s := by
  rw [blockFn_eq]
  exact respond_transient rc payload s _ _ _

/-- Settles O34: each check answers its error, and the block's response leaves no trace of the computation. -/
theorem blockAnswersOneBlock : Obligations.BlockAnswersOneBlock := by
  unfold Obligations.BlockAnswersOneBlock
  intro ctr key nonce s
  simp only [exec_block, execBlock, keySizeOk_eq_false_iff, blockFn_fst, respond_blockFn, Config.nonceBytes]
  split_ifs <;> rfl

end Sys2Proof.Machine
end

section
/-! HChaCha20 and the extended nonce (spec/42_hchacha.md): the layout of `HINIT`, the words of the subkey, the
command `HCHACHA`, and the reduced nonce. -/

namespace Sys2Proof.Machine

/-! ### HINIT -/

section HinitLayout

variable (kw : Vector Word 8) (hw : Vector Word 4)

theorem hinitWords_constant (i : Fin 4) : (hinitWords kw hw)[i.val] = constantWords[i] := by
  fin_cases i <;> rfl

theorem hinitWords_key (i : Fin 8) : (hinitWords kw hw)[4 + i.val] = kw[i] := by
  fin_cases i <;> rfl

theorem hinitWords_nonce (i : Fin 4) : (hinitWords kw hw)[12 + i.val] = hw[i] := by
  fin_cases i <;> rfl

/-- Apart from `W`, the state is the one HINIT started from. -/
theorem hinit_frame (s : State) : { hinit kw hw s with W := s.W } = s := rfl

end HinitLayout

/-- Settles O17: the words of each group are those of the layout, which HINIT leaves in `W` and nowhere else. -/
theorem hinitLaysOutTheWords : Obligations.HinitLaysOutTheWords := by
  unfold Obligations.HinitLaysOutTheWords
  intro kw hw s
  rw [hinit_W]
  exact ⟨hinitWords_constant kw hw, hinitWords_key kw hw, hinitWords_nonce kw hw, hinit_frame kw hw s⟩

/-! ### HCHACHA20 -/

theorem subkeyOf_first (w : Vector Word 16) (i : Fin 4) : (subkeyOf w)[i.val] = w[i.val] := by
  fin_cases i <;> rfl

theorem subkeyOf_last (w : Vector Word 16) (i : Fin 4) : (subkeyOf w)[4 + i.val] = w[12 + i.val] := by
  fin_cases i <;> rfl

theorem hchacha20_fst_eq_subkeyOf (kw : Vector Word 8) (hw : Vector Word 4) (s : State) :
    (hchacha20 kw hw s).1 = subkeyOf (perm (hinit kw hw s)).W := rfl

/-- Apart from `W` and `RND`, the state is the one HCHACHA20 started from: `S` is not touched (R141). -/
theorem hchacha20_frame (kw : Vector Word 8) (hw : Vector Word 4) (s : State) :
    { (hchacha20 kw hw s).2 with W := s.W, RND := s.RND } = s := by
  rw [hchacha20_eq]

/-- Settles O25: the subkey is selected from the permuted words themselves, with no word added to them. -/
theorem hChaChaTakesEightPermutedWords : Obligations.HChaChaTakesEightPermutedWords := by
  unfold Obligations.HChaChaTakesEightPermutedWords
  intro kw hw s
  rw [hchacha20_fst_eq_subkeyOf]
  exact ⟨subkeyOf_first _, subkeyOf_last _, hchacha20_frame kw hw s⟩

/-! ### The command HCHACHA -/

theorem hchacha20_fst (kw : Vector Word 8) (hw : Vector Word 4) (s : State) :
    (hchacha20 kw hw s).1 = subkeyWords kw hw := by
  rw [hchacha20_eq]

theorem exec_hchacha (key nonce : List Byte) (s : State) :
    exec (.hchacha key nonce) s = execHchacha key nonce s := rfl

/-- The response hides what HCHACHA20 left in the transient registers. -/
theorem respond_hchacha20 (rc : ResultCode) (payload : List Byte) (kw : Vector Word 8) (hw : Vector Word 4)
    (s : State) : respond rc payload (hchacha20 kw hw s).2 = respond rc payload s := by
  rw [hchacha20_eq]
  exact respond_transient rc payload s _ _ _

/-- Settles O35: each check answers its error, and the subkey's response leaves no trace of the computation. -/
theorem hchachaAnswersTheSubkey : Obligations.HchachaAnswersTheSubkey := by
  unfold Obligations.HchachaAnswersTheSubkey
  intro key nonce s
  simp only [exec_hchacha, execHchacha, keySizeOk_eq_false_iff, hchacha20_fst, respond_hchacha20,
    Config.hnonceBytes]
  split_ifs <;> rfl

/-! ### The reduced nonce -/

theorem byteAt_slice (p : List Byte) (i n k : Nat) (h : k < n) : byteAt (slice p i n) k = byteAt p (i + k) := by
  simp [byteAt, slice, h]

/-- Word 0 is read from the four zero bytes, word `i + 1` from the bytes of `p` at `4 * i`. -/
theorem le32s_zero_bytes_append (n : Nat) (p : List Byte) :
    (le32s (n + 1) ([0, 0, 0, 0] ++ p))[0] = 0 ∧
    ∀ (i : Nat) (hi : i < n), (le32s (n + 1) ([0, 0, 0, 0] ++ p))[i + 1] = (le32s n p)[i] := by
  refine ⟨by rw [getElem_le32s]; rfl, fun i hi => ?_⟩
  have hpast (k : Nat) : byteAt ([0, 0, 0, 0] ++ p) (k + 4) = byteAt p k := byteAt_append_right _ _ _ (by simp)
  rw [getElem_le32s, getElem_le32s, ← hpast, ← hpast, ← hpast, ← hpast]
  rfl

/-- The byte form of `XNONCE` (R145). -/
theorem xnonceWords_eq_le32s (xn : List Byte) :
    xnonceWords xn = le32s 3 ([0, 0, 0, 0] ++ slice xn 16 8) := by
  obtain ⟨hzero, hsucc⟩ := le32s_zero_bytes_append 2 (slice xn 16 8)
  ext i hi
  cases i with
  | zero => rw [hzero]; rfl
  | succ i =>
    rw [hsucc i (by omega)]
    simp (disch := omega) only [getElem_le32s, byteAt_slice]
    obtain rfl | rfl : i = 0 ∨ i = 1 := by omega
    · rfl
    · rfl

/-- Settles O27: the model writes `XNONCE` in its word form, whose bytes are those of the byte form. -/
theorem reducedNonceBeginsWithFourZeroBytes : Obligations.ReducedNonceBeginsWithFourZeroBytes := by
  unfold Obligations.ReducedNonceBeginsWithFourZeroBytes
  intro xn _
  exact ⟨xnonceWords_eq_le32s xn, rfl⟩

end Sys2Proof.Machine
end

section
/-! Construction and refill (spec/43_keystream.md sections 1 and 2): `INIT` with valid sizes is one `loadContext`,
a ready context that cannot serve a request whole answers `CounterExhausted`, and `REFILL` moves the counter on by
one. -/

namespace Sys2Proof.Machine

/-! ### INIT -/

theorem exec_init (ctr : Option Word) (key nonce : List Byte) (s : State) :
    exec (.init ctr key nonce) s = execInit ctr key nonce s := rfl

/-- The response hides the derivation of the subkey, as if the words had been at hand (R157, R86). -/
theorem respond_initExtended (rc : ResultCode) (payload : List Byte) (c : Word) (key nonce : List Byte) (s : State) :
    respond rc payload (initExtended c key nonce s) =
      respond rc payload (loadContext (subkeyWords (le32s 8 key) (le32s 4 (slice nonce 0 16))) (xnonceWords nonce)
        .extended c s) := by
  simp only [initExtended, hchacha20_eq]
  exact respond_transient rc payload (loadContext _ _ .extended c s) _ _ _

theorem exec_init_of_classic_nonce (ctr : Option Word) {key nonce : List Byte} (s : State)
    (hkey : key.length = 32) (hnonce : nonce.length = 12) :
    exec (.init ctr key nonce) s =
      .next (respond .ok [] (loadContext (le32s 8 key) (le32s 3 nonce) .classic (ctr.getD 0) s)) := by
  simp only [exec_init, execInit, keySizeOk_eq_false_iff, hkey, hnonce, Config.nonceBytes, ne_eq, not_true, if_true,
    if_false]
  rfl

theorem exec_init_of_extended_nonce (ctr : Option Word) {key nonce : List Byte} (s : State)
    (hkey : key.length = 32) (hnonce : nonce.length = 24) :
    exec (.init ctr key nonce) s =
      .next (respond .ok [] (loadContext (subkeyWords (le32s 8 key) (le32s 4 (slice nonce 0 16)))
        (xnonceWords nonce) .extended (ctr.getD 0) s)) := by
  have hclassic : ¬ (24 = Config.nonceBytes) := by decide
  simp only [exec_init, execInit, keySizeOk_eq_false_iff, hkey, hnonce, hclassic, Config.xnonceBytes, ne_eq, not_true,
    if_true, if_false, respond_initExtended]
  rfl

/-- Settles O29: in both variants `INIT` is `loadContext`, whose writes are those of R157. -/
theorem initLoadsTheContext : Obligations.InitLoadsTheContext := by
  unfold Obligations.InitLoadsTheContext
  exact fun ctr _ _ s hkey =>
    ⟨exec_init_of_classic_nonce ctr s hkey, exec_init_of_extended_nonce ctr s hkey⟩

/-- What both variants have in common: the context is loaded with the packet's counter or 0. -/
theorem exec_init_loads (ctr : Option Word) (key nonce : List Byte) (s : State) (hkey : key.length = 32)
    (hnonce : nonce.length = 12 ∨ nonce.length = 24) :
    ∃ kw nw v, exec (.init ctr key nonce) s = .next (respond .ok [] (loadContext kw nw v (ctr.getD 0) s)) := by
  rcases hnonce with hclassic | hextended
  · exact ⟨_, _, _, exec_init_of_classic_nonce ctr s hkey hclassic⟩
  · exact ⟨_, _, _, exec_init_of_extended_nonce ctr s hkey hextended⟩

/-! ### A request past the end of the counter -/

theorem exec_xorks (olen : Nat) (data : List Byte) (s : State) :
    exec (.xorks olen data) s = execXorks olen data s := rfl

/-- A request that is not admissible is not empty, so a ready context answers it with code 4 (R164, R165). -/
theorem exec_xorks_of_not_admissible (data : List Byte) (s : State) (hready : s.ST = .ready)
    (hadm : admissible s data.length = false) :
    exec (.xorks data.length data) s = .next (respond .counterExhausted [] { s with ST := .exhausted }) := by
  have hdata : data ≠ [] := by
    rintro rfl
    simp [admissible] at hadm
  simp [exec_xorks, execXorks, lengthsOk, hready, hadm, hdata]

/-- With an empty buffer and the counter at its maximum, no byte can be served (R158, R165). -/
theorem not_admissible_of_last_counter (data : List Byte) (s : State) (hoff : s.OFF = 64)
    (hctr : s.CTR = 0xFFFFFFFF) (hdata : data ≠ []) : admissible s data.length = false := by
  have hpos : 0 < data.length := List.length_pos_iff.mpr hdata
  have hempty : s.OFF.val = 64 := by rw [hoff]; rfl
  have hmax : s.CTR.toNat = 0xFFFFFFFF := by rw [hctr]; rfl
  rw [admissible_eq_false_iff, hempty, hmax]
  omega

/-- Settles O31: the loaded context has the given counter and an empty buffer, so at the greatest counter every
request that is not empty is inadmissible. -/
theorem initialCounterIsTakenOrZero : Obligations.InitialCounterIsTakenOrZero := by
  unfold Obligations.InitialCounterIsTakenOrZero
  intro ctr key nonce s hkey hnonce
  obtain ⟨kw, nw, v, hinit⟩ := exec_init_loads ctr key nonce s hkey hnonce
  refine ⟨_, hinit, rfl, rfl, ?_, ?_, ?_⟩
  · rintro rfl
    rfl
  · rintro c rfl
    rfl
  · rintro rfl data hdata
    refine ⟨_, exec_xorks_of_not_admissible data _ rfl ?_, rfl, rfl⟩
    exact not_admissible_of_last_counter data _ rfl rfl hdata

/-! ### REFILL -/

/-- Below its maximum the counter moves on by one without wrapping (R164). -/
theorem toNat_refill_CTR (s : State) (hctr : s.CTR ≠ 0xFFFFFFFF) : (refill s).CTR.toNat = s.CTR.toNat + 1 := by
  have hnext : (refill s).CTR = s.CTR + 1 := by rw [refill_eq]
  rw [hnext]
  bv_omega

/-- Apart from the buffer, its offset, the counter and the transient registers, the state is the one REFILL
started from. -/
theorem refill_frame (s : State) :
    { refill s with BUF := s.BUF, OFF := s.OFF, CTR := s.CTR, W := s.W, S := s.S, RND := s.RND } = s := by
  rw [refill_eq]

/-- Settles O38: the block is generated from the counter as it was, and the counter then moves on. -/
theorem refillGeneratesOneBlock : Obligations.RefillGeneratesOneBlock := by
  unfold Obligations.RefillGeneratesOneBlock
  exact fun s hctr => ⟨rfl, rfl, toNat_refill_CTR s hctr, refill_frame s⟩

end Sys2Proof.Machine
end

section
/-! The XOR engine and `ZEROIZE` (spec/44_xor.md): what consuming one byte does to the buffer, the ways `XORKS` ends
before it serves a byte, and the destruction of the context. -/

namespace Sys2Proof.Machine

/-! ### XORBYTE -/

/-- Apart from the buffer and its offset, a byte served from the buffer leaves the state as it was. -/
theorem xorByte_frame_of_nonempty (x : Byte) (s : State) (h : s.OFF ≠ 64) :
    { (xorByte x s).2 with BUF := s.BUF, OFF := s.OFF } = s := by
  rw [xorByte_of_nonempty x s h]

/-- Settles O39: an empty buffer is refilled first; from any other, the byte at `OFF` is read, cleared and passed. -/
theorem xorByteConsumesOneByte : Obligations.XorByteConsumesOneByte := by
  unfold Obligations.XorByteConsumesOneByte
  refine ⟨fun x s hempty => xorByte_of_empty x s (Fin.ext hempty), fun x s hoff => ?_⟩
  have hne : s.OFF ≠ 64 := Fin.ne_of_lt hoff
  refine ⟨?_, fun i => ?_, ?_, xorByte_frame_of_nonempty x s hne⟩ <;> rw [xorByte_of_nonempty x s hne]
  · rfl
  · exact bufByte_discardByte s.BUF s.OFF.val i
  · exact offNext_val s.OFF hoff

/-! ### The checks of XORKS -/

/-- With `P_DST_GE` false, only a destination of the input's own length is accepted (R188). -/
theorem lengthsOk_eq_false_iff (ilen olen : Nat) : lengthsOk ilen olen = false ↔ olen ≠ ilen := by
  simp [lengthsOk]

theorem not_lengthsOk_self_eq_false (n : Nat) : ¬ lengthsOk n n = false :=
  fun h => (lengthsOk_eq_false_iff n n).mp h rfl

/-- Without a context `XORKS` looks at nothing else (R186). -/
theorem exec_xorks_of_uninit (olen : Nat) (data : List Byte) (s : State) (hst : s.ST = .uninit) :
    exec (.xorks olen data) s = .next (respond .notReady [] s) := by
  rw [exec_xorks, execXorks, if_pos hst, raise_eq]

/-- The lengths are compared before exhaustion is looked at (R188, R187). -/
theorem exec_xorks_of_length_ne (olen : Nat) (data : List Byte) (s : State) (hst : s.ST ≠ .uninit)
    (hlen : olen ≠ data.length) : exec (.xorks olen data) s = .next (respond .bufferLengthMismatch [] s) := by
  rw [exec_xorks, execXorks, if_neg hst, if_pos ((lengthsOk_eq_false_iff _ _).mpr hlen), raise_eq]

/-- An exhausted context serves no request, not even an empty one (R187, R166). -/
theorem exec_xorks_of_exhausted (data : List Byte) (s : State) (hst : s.ST = .exhausted) :
    exec (.xorks data.length data) s = .next (respond .counterExhausted [] s) := by
  rw [exec_xorks, execXorks, if_neg (by simp [hst]), if_neg (not_lengthsOk_self_eq_false _), if_pos hst, raise_eq]

/-- A ready context answers the empty request without touching the keystream (R166). -/
theorem exec_xorks_nil_of_ready (s : State) (hst : s.ST = .ready) :
    exec (.xorks 0 []) s = .next (respond .ok [] s) := by
  rw [exec_xorks, execXorks, if_neg (by simp [hst]), List.length_nil, if_neg (not_lengthsOk_self_eq_false 0),
    if_neg (by simp [hst]), if_pos rfl]

/-- Settles O40: one clause for each check of `XORKS`, in their order. -/
theorem xorksChecksInOrder : Obligations.XorksChecksInOrder := by
  unfold Obligations.XorksChecksInOrder
  refine fun olen data s => ⟨exec_xorks_of_uninit olen data s, exec_xorks_of_length_ne olen data s, ?_, ?_⟩
  · rintro hst rfl
    exact exec_xorks_of_exhausted data s hst
  · rintro hst rfl rfl
    exact exec_xorks_nil_of_ready s hst

/-! ### ZEROIZE -/

theorem exec_zeroize (s : State) : exec .zeroize s = .next (respond .ok [] (clearContext s)) := rfl

/-- `clearContext` clears the context and the transient registers, and the response the rest: together a reset
event, but for the response byte (R196). -/
theorem respond_clearContext (payload : List Byte) (s : State) :
    respond .ok payload (clearContext s) =
      { resetEvent s.input s with rsp := s.rsp ++ packetBeats (resultByte .ok :: payload) } := rfl

/-- Settles O36: the response to `ZEROIZE` is the reset event's state, and its one byte is code 0. -/
theorem zeroizeGivesResetValues : Obligations.ZeroizeGivesResetValues := by
  unfold Obligations.ZeroizeGivesResetValues
  intro s
  rw [exec_zeroize, respond_clearContext]
  rfl

end Sys2Proof.Machine
end

section
/-! Errors and the lifecycle (spec/60_exceptions.md): the checks of the key and nonce sizes, the three ways a packet
ends, what a failing one writes (R213), and the transition table of `ST` (R220). -/

namespace Sys2Proof.Machine

open Sys2Proof.Safety

/-! ### The sizes of the key and of the nonce -/

/-- The key size is the first thing `INIT` looks at (R156). -/
theorem exec_init_of_wrong_key (ctr : Option Word) (key nonce : List Byte) (s : State) (hkey : key.length ≠ 32) :
    exec (.init ctr key nonce) s = .next (respond .invalidKeySize [] s) := by
  rw [exec_init, execInit, if_pos ((keySizeOk_eq_false_iff key).mpr hkey), raise_eq]

theorem exec_init_of_wrong_nonce (ctr : Option Word) (key nonce : List Byte) (s : State) (hkey : key.length = 32)
    (hclassic : nonce.length ≠ 12) (hextended : nonce.length ≠ 24) :
    exec (.init ctr key nonce) s = .next (respond .invalidNonceSize [] s) := by
  rw [exec_init, execInit, if_neg (by simp [keySizeOk_eq_false_iff, hkey]), Config.nonceBytes, Config.xnonceBytes,
    if_neg hclassic, if_neg hextended, raise_eq]

/-- Settles O32: the key size is the first check of each command; `BLOCK` and `HCHACHA` are known in full. -/
theorem wrongKeySizeIsRejected : Obligations.WrongKeySizeIsRejected := by
  unfold Obligations.WrongKeySizeIsRejected
  intro ctr key nonce s hkey
  refine ⟨exec_init_of_wrong_key ctr key nonce s hkey, ?_, ?_⟩
  · rw [blockAnswersOneBlock, if_pos hkey]
  · rw [hchachaAnswersTheSubkey, if_pos hkey]

/-- Settles O33: past the key size, each command compares the nonce size with the sizes it takes. -/
theorem wrongNonceSizeIsRejected : Obligations.WrongNonceSizeIsRejected := by
  unfold Obligations.WrongNonceSizeIsRejected
  intro ctr key nonce s hkey
  refine ⟨exec_init_of_wrong_nonce ctr key nonce s hkey, fun hnonce => ?_, fun hnonce => ?_⟩
  · rw [blockAnswersOneBlock, if_neg (not_not.mpr hkey), if_pos hnonce]
  · rw [hchachaAnswersTheSubkey, if_neg (not_not.mpr hkey), if_pos hnonce]

/-! ### A request a ready context serves -/

theorem admissible_eq_false_iff_exhausts (s : State) (n : Nat) : admissible s n = false ↔ exhausts s n :=
  admissible_eq_false_iff s n

/-- An empty request is served too: it is answered with no byte, and consumes none. -/
theorem exec_xorks_of_not_exhausts (data : List Byte) (s : State) (hready : s.ST = .ready)
    (hfits : ¬ exhausts s data.length) :
    exec (.xorks data.length data) s = .next (respond .ok (xorBytes data s).1 (xorBytes data s).2) := by
  cases data with
  | nil => exact exec_xorks_nil_of_ready s hready
  | cons x data =>
    rw [exec_xorks, execXorks, if_neg (by simp [hready]), if_neg (not_lengthsOk_self_eq_false _),
      if_neg (by simp [hready]), if_neg (by simp), if_neg (by rwa [admissible_eq_false_iff_exhausts])]

/-! ### The three ways a packet ends -/

/-- How a packet taken in `s` ends, if it takes `ST` to `st`: with success; with an error that leaves the state alone;
or with `CounterExhausted`, whose one write besides the response is `ST` (R213). -/
inductive EndsFrom (s : State) (st : Lifecycle) : Host.Outcome State Fault Refusal → Prop where
  | success (payload : List Byte) (t : State) (hst : t.ST = st) : EndsFrom s st (.next (respond .ok payload t))
  | failure (e : ResultCode) (he : e ≠ .counterExhausted) (hst : s.ST = st) :
    EndsFrom s st (.next (respond e [] s))
  | exhaustion (hcontext : s.ST ≠ .uninit) (hst : .exhausted = st) :
    EndsFrom s st (.next (respond .counterExhausted [] { s with ST := .exhausted }))

theorem exec_init_endsFrom (ctr : Option Word) (key nonce : List Byte) (s : State) :
    EndsFrom s (lifecycleAfter (some (.init ctr key nonce)) s) (exec (.init ctr key nonce) s) := by
  by_cases hkey : key.length = 32
  · by_cases hnonce : nonce.length = 12 ∨ nonce.length = 24
    · obtain ⟨kw, nw, v, hexec⟩ := exec_init_loads ctr key nonce s hkey hnonce
      rw [hexec]
      exact .success [] _ (if_pos ⟨hkey, hnonce⟩).symm
    · obtain ⟨hclassic, hextended⟩ := not_or.mp hnonce
      rw [exec_init_of_wrong_nonce ctr key nonce s hkey hclassic hextended]
      exact .failure .invalidNonceSize nofun (if_neg fun h => hnonce h.2).symm
  · rw [exec_init_of_wrong_key ctr key nonce s hkey]
    exact .failure .invalidKeySize nofun (if_neg fun h => hkey h.1).symm

/-- The row of `XORKS` in `READY`, once the lengths agree. -/
theorem lifecycleAfter_xorks_of_ready (data : List Byte) (s : State) (hready : s.ST = .ready) :
    lifecycleAfter (some (.xorks data.length data)) s =
      if exhausts s data.length then .exhausted else .ready := by
  simp only [lifecycleAfter, hready, true_and]

theorem exec_xorks_endsFrom (olen : Nat) (data : List Byte) (s : State) :
    EndsFrom s (lifecycleAfter (some (.xorks olen data)) s) (exec (.xorks olen data) s) := by
  by_cases huninit : s.ST = .uninit
  · rw [exec_xorks_of_uninit olen data s huninit]
    exact .failure .notReady nofun (by simp [lifecycleAfter, huninit])
  by_cases hlen : olen = data.length
  · subst hlen
    cases hst : s.ST with
    | uninit => exact absurd hst huninit
    | exhausted =>
      have hsame : s = { s with ST := .exhausted } := by rw [← hst]
      rw [exec_xorks_of_exhausted data s hst, hsame]
      exact .exhaustion (by simp) rfl
    | ready =>
      rw [lifecycleAfter_xorks_of_ready data s hst]
      by_cases hexh : exhausts s data.length
      · rw [exec_xorks_of_not_admissible data s hst ((admissible_eq_false_iff_exhausts s _).mpr hexh)]
        exact .exhaustion huninit (if_pos hexh).symm
      · obtain ⟨-, -, hkeeps, -⟩ := xorBytes_keeps data s
        rw [exec_xorks_of_not_exhausts data s hst hexh]
        exact .success _ _ (by rw [hkeeps, hst, if_neg hexh])
  · rw [exec_xorks_of_length_ne olen data s huninit hlen]
    exact .failure .bufferLengthMismatch nofun (by cases hst : s.ST <;> simp [lifecycleAfter, hst, hlen])

theorem exec_endsFrom (i : Instr) (s : State) : EndsFrom s (lifecycleAfter (some i) s) (exec i s) := by
  cases i with
  | init ctr key nonce => exact exec_init_endsFrom ctr key nonce s
  | xorks olen data => exact exec_xorks_endsFrom olen data s
  | hchacha key nonce =>
    rw [hchachaAnswersTheSubkey]
    split_ifs
    case pos => exact .failure .invalidKeySize nofun rfl
    case pos => exact .failure .invalidNonceSize nofun rfl
    case neg => exact .success _ s rfl
  | block ctr key nonce =>
    rw [blockAnswersOneBlock]
    split_ifs
    case pos => exact .failure .invalidKeySize nofun rfl
    case pos => exact .failure .invalidNonceSize nofun rfl
    case neg => exact .success _ s rfl
  | zeroize => exact .success [] _ (clearContext_ST s)

/-- A malformed packet fails and, like every failure, leaves `ST` alone (R82, R220). -/
theorem runPacket_endsFrom (p : List Byte) (s : State) :
    EndsFrom s (lifecycleAfter (decode p).toOption s) (runPacket p s) := by
  cases hd : decode p with
  | ok i => exact runPacket_of_ok p i s hd ▸ exec_endsFrom i s
  | error e => exact runPacket_of_error p e s hd ▸ .failure .illegalCommand nofun rfl

/-! ### What a failing packet writes -/

/-- Between commands a packet that ends with an error writes `ERR`, and `ST` when the counter is exhausted. -/
theorem EndsFrom.eq_of_error {s t : State} {st : Lifecycle} {rest : List HostInput}
    (hend : EndsFrom (acceptPacket rest s) st (.next t)) (hidle : Idle s) (herr : t.ERR ≠ .ok) :
    t = { s with
      input := rest
      ERR := t.ERR
      ST := if t.ERR = .counterExhausted then .exhausted else s.ST
      rsp := s.rsp ++ [⟨resultByte t.ERR, true⟩] } ∧
    (t.ERR = .counterExhausted → s.ST ≠ .uninit) := by
  cases hend with
  | success payload t hst => exact absurd rfl herr
  | failure e he hst =>
    rw [respond_acceptPacket_of_idle s e [] rest hidle]
    exact ⟨by rw [if_neg he]; rfl, fun h => absurd h he⟩
  | exhaustion hcontext hst =>
    obtain ⟨hbusy, hworking, hsaved, hrounds⟩ := hidle
    have hwrites := respond_acceptPacket_of_idle { s with ST := .exhausted } .counterExhausted [] rest
      ⟨hbusy, hworking, hsaved, hrounds⟩
    exact ⟨hwrites, fun _ => hcontext⟩

/-- Settles O49: the packet ends in one of three ways, and the two with an error write what R213 says. -/
theorem failingCommandWritesOnlyErr : Obligations.FailingCommandWritesOnlyErr := by
  unfold Obligations.FailingCommandWritesOnlyErr
  refine ⟨fun s t p rest hidle hoffer hstep herr => ?_, rfl, rfl, rfl, rfl, rfl, rfl⟩
  have hend := runPacket_endsFrom p (acceptPacket rest s)
  rw [← step_of_offered s p rest hidle.busy hoffer, hstep] at hend
  exact hend.eq_of_error hidle herr

/-! ### The lifecycle -/

theorem EndsFrom.exists_next {s : State} {st : Lifecycle} {o : Host.Outcome State Fault Refusal}
    (hend : EndsFrom s st o) : ∃ t, o = .next t ∧ t.ST = st := by
  cases hend with
  | success payload t hst => exact ⟨_, rfl, hst⟩
  | failure e he hst => exact ⟨_, rfl, hst⟩
  | exhaustion hcontext hst => exact ⟨_, rfl, hst⟩

/-- Taking the packet changes nothing the transition table looks at. -/
theorem lifecycleAfter_acceptPacket (cmd : Option Instr) (s : State) (rest : List HostInput) :
    lifecycleAfter cmd (acceptPacket rest s) = lifecycleAfter cmd s := by
  rcases cmd with - | i
  · rfl
  · cases i <;> rfl

/-- Settles O50: a reset gives the reset value of `ST`, and every packet ends with `ST` as its row says. -/
theorem lifecycleFollowsTheTable : Obligations.LifecycleFollowsTheTable := by
  unfold Obligations.LifecycleFollowsTheTable
  refine ⟨fun s rest hreset => ⟨_, step_of_reset s rest hreset, resetEvent_ST s rest⟩,
    fun s p rest hbusy hoffer => ?_⟩
  have hend := runPacket_endsFrom p (acceptPacket rest s)
  rw [← step_of_offered s p rest hbusy hoffer, lifecycleAfter_acceptPacket] at hend
  obtain ⟨t, hstep, hst⟩ := hend.exists_next
  refine ⟨t, hstep, hst.trans ?_⟩
  cases decode p <;> rfl

end Sys2Proof.Machine
end

section
/-! Decoding and encoding are inverse (spec/30_encoding.md section 8): the parts of a packet the encoder wrote are
read back by each command's decoder, and a packet that a command's decoder accepted is written again from what was
read. -/

namespace Sys2Proof.Machine

/-! ### Parts of a packet -/

theorem slice_middle {a b c : List Byte} {i n : Nat} (hi : a.length = i) (hn : b.length = n) :
    slice (a ++ (b ++ c)) i n = b := by
  subst hi hn
  exact slice_append_exact a b c

theorem slice_last {a b : List Byte} {i n : Nat} (hi : a.length = i) (hn : b.length = n) :
    slice (a ++ b) i n = b := by
  simpa using slice_middle (c := []) hi hn

theorem le64_serNat {n : Nat} (hn : n < 2 ^ 64) : le64 (serNat 8 n) = n := by
  rw [le64, List.take_of_length_le (by simp), leNat_serNat 8 n hn]

theorem serNat_le64 {p : List Byte} (hp : p.length = 8) : serNat 8 (le64 p) = p := by
  rw [le64, List.take_of_length_le (by omega), ← hp, serNat_leNat]

theorem le64_lt (p : List Byte) : le64 p < 2 ^ 64 :=
  calc le64 p < 256 ^ (p.take 8).length := leNat_lt _
    _ ≤ 256 ^ 8 := Nat.pow_le_pow_right (by decide) (by simp)

@[simp] theorem length_encodeHeader (opc : Byte) (cv : Bool) (klen nlen : Nat) :
    (encodeHeader opc cv klen nlen).length = 4 := rfl

/-! ### The header the encoder wrote -/

section EncodedHeader

variable {p operands : List Byte} {opc : Byte} {cv : Bool} {klen nlen : Nat}
  (hp : p = encodeHeader opc cv klen nlen ++ operands)

include hp

theorem headerOpc_of_encodeHeader : headerOpc (headerWord p) = opc := by
  rw [hp, headerOpc_headerWord]
  rfl

theorem headerReserved_of_encodeHeader : headerReserved (headerWord p) = 0 := by
  rw [hp, headerReserved_headerWord]
  exact Laws.EncodeHeader.reserved_flag cv

theorem headerCv_of_encodeHeader : headerCv (headerWord p) = cv := by
  rw [hp, headerCv_headerWord]
  exact show (if cv then 1 else 0 : Byte).getLsbD 0 = cv by cases cv <;> decide

theorem headerKlen_of_encodeHeader (hklen : klen < 256) : headerKlen (headerWord p) = klen := by
  rw [hp, headerKlen_headerWord]
  exact Laws.EncodeHeader.length_key klen hklen

theorem headerNlen_of_encodeHeader (hnlen : nlen < 256) : headerNlen (headerWord p) = nlen := by
  rw [hp, headerNlen_headerWord]
  exact Laws.EncodeHeader.length_key nlen hnlen

end EncodedHeader

theorem exists_encode_eq_encodeHeader (i : Instr) :
    ∃ cv klen nlen operands, encode i = encodeHeader (opcode i) cv klen nlen ++ operands := by
  cases i with
  | zeroize => exact ⟨_, _, _, [], rfl⟩
  | _ =>
    simp only [encode, encodeFormatK, List.append_assoc]
    exact ⟨_, _, _, _, rfl⟩

/-- Past the header checks, the opcode the encoder wrote selects the command's decoder (R88). -/
theorem decode_encode_by_opcode (i : Instr) :
    decode (encode i) =
      if opcode i = 0x01 then decodeInit (encode i)
      else if opcode i = 0x04 then decodeBlock (encode i)
      else if opcode i = 0x03 then decodeHchacha (encode i)
      else if opcode i = 0x02 then decodeXorks (encode i)
      else if opcode i = 0x05 then decodeZeroize (encode i)
      else .error .reservedOpcode := by
  obtain ⟨cv, klen, nlen, operands, hp⟩ := exists_encode_eq_encodeHeader i
  have hlen : ¬ (encode i).length < 4 := by simp [hp]
  simp only [decode, if_neg hlen, headerReserved_of_encodeHeader hp, headerOpc_of_encodeHeader hp, ne_eq, not_true,
    if_false]

/-! ### Decoding what the encoder wrote -/

theorem decodeFormatK_encodeFormatK (opc : Byte) (ctr : Option Word) {key nonce : List Byte}
    (hkey : key.length < 256) (hnonce : nonce.length < 256) :
    decodeFormatK (encodeFormatK opc ctr key nonce) = .ok (ctr, key, nonce) := by
  generalize hp : encodeFormatK opc ctr key nonce = p
  rw [encodeFormatK] at hp
  have hkeyAt : slice p 8 key.length = key := by
    rw [← hp, List.append_assoc]
    exact slice_middle rfl rfl
  have hnonceAt : slice p (8 + key.length) nonce.length = nonce := by
    rw [← hp]
    exact slice_last (by simp; omega) rfl
  have hlen : p.length = 8 + key.length + nonce.length := by
    simp [← hp]
    omega
  simp only [List.append_assoc] at hp
  have hfield : slice p 4 4 = ser32 (ctr.getD 0) := hp ▸ slice_middle rfl rfl
  have hcounter : counterField p = ctr.getD 0 := hp ▸ le32_wordByte (ctr.getD 0)
  simp only [decodeFormatK, headerCv_of_encodeHeader hp.symm, headerKlen_of_encodeHeader hp.symm hkey,
    headerNlen_of_encodeHeader hp.symm hnonce, hlen, hfield, hcounter, hkeyAt, hnonceAt]
  cases ctr with
  | none =>
    simp only [Option.isSome_none, Option.getD_none, ne_eq, not_true, if_false, Bool.false_eq_true]
    exact if_neg fun h => h.2 (by decide)
  | some c => simp

theorem decodeInit_encode (ctr : Option Word) {key nonce : List Byte}
    (hkey : key.length < 256) (hnonce : nonce.length < 256) :
    decodeInit (encode (.init ctr key nonce)) = .ok (.init ctr key nonce) := by
  rw [encode, decodeInit, decodeFormatK_encodeFormatK _ ctr hkey hnonce]

theorem decodeBlock_encode (ctr : Option Word) {key nonce : List Byte}
    (hkey : key.length < 256) (hnonce : nonce.length < 256) :
    decodeBlock (encode (.block ctr key nonce)) = .ok (.block ctr key nonce) := by
  rw [encode, decodeBlock, decodeFormatK_encodeFormatK _ ctr hkey hnonce]

theorem decodeHchacha_encode {key nonce : List Byte} (hkey : key.length < 256) (hnonce : nonce.length < 256) :
    decodeHchacha (encode (.hchacha key nonce)) = .ok (.hchacha key nonce) := by
  generalize hp : encode (.hchacha key nonce) = p
  rw [encode] at hp
  have hnonceAt : slice p (4 + key.length) nonce.length = nonce := by
    rw [← hp]
    exact slice_last (by simp) rfl
  have hlen : p.length = 4 + key.length + nonce.length := by
    simp [← hp]
    omega
  rw [List.append_assoc] at hp
  have hkeyAt : slice p 4 key.length = key := hp ▸ slice_middle rfl rfl
  simp only [decodeHchacha, headerCv_of_encodeHeader hp.symm, headerKlen_of_encodeHeader hp.symm hkey,
    headerNlen_of_encodeHeader hp.symm hnonce, hlen, hkeyAt, hnonceAt, Bool.false_eq_true, if_false, ne_eq, not_true]

theorem decodeXorks_encode {olen : Nat} {data : List Byte} (holen : olen < 2 ^ 64) (hdata : data.length < 2 ^ 64) :
    decodeXorks (encode (.xorks olen data)) = .ok (.xorks olen data) := by
  generalize hp : encode (.xorks olen data) = p
  rw [encode] at hp
  have hdataAt : p.drop 20 = data := by
    rw [← hp]
    exact List.drop_left' (by simp)
  have holenAt : slice p 12 8 = serNat 8 olen := by
    rw [← hp, List.append_assoc]
    exact slice_middle (by simp) (length_serNat 8 _)
  have hlen : p.length = 20 + data.length := by
    simp [← hp]
    omega
  simp only [List.append_assoc] at hp
  have hilen : slice p 4 8 = serNat 8 data.length := hp ▸ slice_middle rfl (length_serNat 8 _)
  have hheader : ¬ 20 + data.length < 20 := by omega
  simp only [decodeXorks, headerCv_of_encodeHeader hp.symm, headerKlen_of_encodeHeader hp.symm (by decide),
    headerNlen_of_encodeHeader hp.symm (by decide), hlen, hilen, holenAt, hdataAt, le64_serNat hdata, le64_serNat holen,
    Bool.false_eq_true, ne_eq, not_true, or_self, if_false, if_neg hheader]

/-- Settles O11: the opcode the encoder wrote selects the command's own decoder, which reads the operands back. -/
theorem decodeOfEncodeIsTheCommand : Obligations.DecodeOfEncodeIsTheCommand := by
  unfold Obligations.DecodeOfEncodeIsTheCommand
  intro i hwf
  cases i with
  | init ctr key nonce =>
    obtain ⟨hkey, hnonce⟩ := (wellFormed_init ctr key nonce).mp hwf
    rw [decode_encode_by_opcode]
    exact decodeInit_encode ctr hkey hnonce
  | xorks olen data =>
    obtain ⟨holen, hdata⟩ := (wellFormed_xorks olen data).mp hwf
    rw [decode_encode_by_opcode]
    exact decodeXorks_encode holen hdata
  | hchacha key nonce =>
    obtain ⟨hkey, hnonce⟩ := (wellFormed_hchacha key nonce).mp hwf
    rw [decode_encode_by_opcode]
    exact decodeHchacha_encode hkey hnonce
  | block ctr key nonce =>
    obtain ⟨hkey, hnonce⟩ := (wellFormed_block ctr key nonce).mp hwf
    rw [decode_encode_by_opcode]
    exact decodeBlock_encode ctr hkey hnonce
  | zeroize => decide

/-! ### Encoding what the decoder read -/

/-- A flag byte with its reserved bits clear is written back from its flag (R72). -/
theorem flagByte_of_reserved (b : Byte) (h : b.extractLsb' 1 7 = 0) : (if b.getLsbD 0 then 1 else 0) = b := by
  revert b
  decide

theorem slice_four {p : List Byte} {i : Nat} (h : i + 4 ≤ p.length) :
    slice p i 4 = [byteAt p i, byteAt p (i + 1), byteAt p (i + 2), byteAt p (i + 3)] := by
  simp only [slice, byteAt]
  rw [List.drop_eq_getElem_cons (by omega), List.drop_eq_getElem_cons (by omega), List.drop_eq_getElem_cons (by omega),
    List.drop_eq_getElem_cons (by omega), List.getD_eq_getElem _ _ (by omega), List.getD_eq_getElem _ _ (by omega),
    List.getD_eq_getElem _ _ (by omega), List.getD_eq_getElem _ _ (by omega)]
  rfl

theorem take_append_slice (p : List Byte) (i n : Nat) : p.take i ++ slice p i n = p.take (i + n) :=
  List.take_add.symm

theorem ser32_counterField {p : List Byte} (h : 8 ≤ p.length) : ser32 (counterField p) = slice p 4 4 := by
  rw [slice_four (by omega)]
  simp [ser32, counterField]

/-- Past a check of the decoder, the packet has passed it. -/
theorem check_eq_ok_iff {α : Type} {c : Prop} [Decidable c] {e : Illegal} {r : Except Illegal α} {a : α} :
    (if c then .error e else r) = .ok a ↔ ¬ c ∧ r = .ok a := by
  by_cases hc : c <;> simp [hc]

section DecodedPacket

variable {p : List Byte} (hlen : 4 ≤ p.length) (hreserved : (byteAt p 1).extractLsb' 1 7 = 0)

include hlen hreserved

/-- The header written again from its fields is the four bytes it was read from (R72). -/
theorem encodeHeader_eq_take {opc : Byte} {cv : Bool} {klen nlen : Nat} (hopc : byteAt p 0 = opc)
    (hcv : (byteAt p 1).getLsbD 0 = cv) (hklen : (byteAt p 2).toNat = klen) (hnlen : (byteAt p 3).toNat = nlen) :
    encodeHeader opc cv klen nlen = p.take 4 := by
  subst hopc hcv hklen hnlen
  have hfour := slice_four (p := p) (i := 0) (by omega)
  rw [slice, List.drop_zero] at hfour
  rw [hfour, encodeHeader, flagByte_of_reserved _ hreserved]
  simp

theorem encodeFormatK_of_decodeFormatK {ctr : Option Word} {key nonce : List Byte}
    (h : decodeFormatK p = .ok (ctr, key, nonce)) :
    encodeFormatK (byteAt p 0) ctr key nonce = p ∧ key.length < 256 ∧ nonce.length < 256 := by
  simp only [decodeFormatK, check_eq_ok_iff, headerCv_headerWord, headerKlen_headerWord, headerNlen_headerWord,
    Except.ok.injEq, Prod.mk.injEq, ne_eq, not_not] at h
  obtain ⟨htotal, hfield, hctr, hkey, hnonce⟩ := h
  have hkeyLen : key.length = (byteAt p 2).toNat := by
    rw [← hkey, length_slice]
    omega
  have hnonceLen : nonce.length = (byteAt p 3).toNat := by
    rw [← hnonce, length_slice]
    omega
  have hcv : ctr.isSome = (byteAt p 1).getLsbD 0 := by
    rw [← hctr]
    cases (byteAt p 1).getLsbD 0 <;> rfl
  have hser : ser32 (ctr.getD 0) = slice p 4 4 := by
    rw [← hctr]
    cases hflag : (byteAt p 1).getLsbD 0 with
    | true => exact ser32_counterField (by omega)
    | false =>
      rw [not_and, not_not] at hfield
      exact (show ser32 0 = [0, 0, 0, 0] by decide).trans (hfield hflag).symm
  refine ⟨?_, by omega, by omega⟩
  rw [encodeFormatK, encodeHeader_eq_take hlen hreserved rfl hcv.symm hkeyLen.symm hnonceLen.symm, hser, ← hkey,
    ← hnonce, take_append_slice, take_append_slice, take_append_slice, ← htotal, List.take_length]

theorem encode_of_decodeHchacha {i : Instr} (hopc : byteAt p 0 = 0x03) (h : decodeHchacha p = .ok i) :
    encode i = p ∧ i.wellFormed = true := by
  simp only [decodeHchacha, check_eq_ok_iff, headerCv_headerWord, headerKlen_headerWord, headerNlen_headerWord,
    Except.ok.injEq, ne_eq, not_not, Bool.not_eq_true] at h
  obtain ⟨hcv, htotal, rfl⟩ := h
  have hkeyLen : (slice p 4 (byteAt p 2).toNat).length = (byteAt p 2).toNat := by rw [length_slice]; omega
  have hnonceLen : (slice p (4 + (byteAt p 2).toNat) (byteAt p 3).toNat).length = (byteAt p 3).toNat := by
    rw [length_slice]; omega
  refine ⟨?_, (wellFormed_hchacha _ _).mpr ⟨by omega, by omega⟩⟩
  rw [encode, hkeyLen, hnonceLen, opcode, encodeHeader_eq_take hlen hreserved hopc hcv rfl rfl,
    take_append_slice, take_append_slice, ← htotal, List.take_length]

theorem encode_of_decodeXorks {i : Instr} (hopc : byteAt p 0 = 0x02) (h : decodeXorks p = .ok i) :
    encode i = p ∧ i.wellFormed = true := by
  simp only [decodeXorks, check_eq_ok_iff, headerCv_headerWord, headerKlen_headerWord, headerNlen_headerWord,
    Except.ok.injEq, not_lt, ne_eq, not_or, not_not, Bool.not_eq_true] at h
  obtain ⟨⟨hcv, hklen, hnlen⟩, hfields, htotal, rfl⟩ := h
  have hdata : (p.drop 20).length = le64 (slice p 4 8) := by rw [List.length_drop]; omega
  have hilenField : (slice p 4 8).length = 8 := by rw [length_slice]; omega
  have holenField : (slice p 12 8).length = 8 := by rw [length_slice]; omega
  refine ⟨?_, (wellFormed_xorks _ _).mpr ⟨le64_lt _, hdata ▸ le64_lt _⟩⟩
  rw [encode, hdata, serNat_le64 hilenField, serNat_le64 holenField, opcode,
    encodeHeader_eq_take hlen hreserved hopc hcv hklen hnlen, take_append_slice, take_append_slice,
    List.take_append_drop]

theorem encode_of_decodeZeroize {i : Instr} (hopc : byteAt p 0 = 0x05) (h : decodeZeroize p = .ok i) :
    encode i = p ∧ i.wellFormed = true := by
  simp only [decodeZeroize, check_eq_ok_iff, headerCv_headerWord, headerKlen_headerWord, headerNlen_headerWord,
    Except.ok.injEq, ne_eq, not_or, not_not, Bool.not_eq_true] at h
  obtain ⟨⟨hcv, hklen, hnlen⟩, htotal, rfl⟩ := h
  refine ⟨?_, wellFormed_zeroize⟩
  rw [encode, opcode, encodeHeader_eq_take hlen hreserved hopc hcv hklen hnlen, ← htotal, List.take_length]

theorem encode_of_decodeInit {i : Instr} (hopc : byteAt p 0 = 0x01) (h : decodeInit p = .ok i) :
    encode i = p ∧ i.wellFormed = true := by
  rw [decodeInit] at h
  split at h
  case h_1 ctr key nonce hformat =>
    obtain rfl := Except.ok.inj h
    rw [wellFormed_init, encode, opcode, ← hopc]
    exact encodeFormatK_of_decodeFormatK hlen hreserved hformat
  case h_2 => cases h

theorem encode_of_decodeBlock {i : Instr} (hopc : byteAt p 0 = 0x04) (h : decodeBlock p = .ok i) :
    encode i = p ∧ i.wellFormed = true := by
  rw [decodeBlock] at h
  split at h
  case h_1 ctr key nonce hformat =>
    obtain rfl := Except.ok.inj h
    rw [wellFormed_block, encode, opcode, ← hopc]
    exact encodeFormatK_of_decodeFormatK hlen hreserved hformat
  case h_2 => cases h

end DecodedPacket

/-- Settles O12: the packet's header passed the checks, so the header written again is its first four bytes, and the
operands written again are the bytes the command's decoder read. -/
theorem everyCommandHasOnePacket : Obligations.EveryCommandHasOnePacket := by
  unfold Obligations.EveryCommandHasOnePacket
  intro p i h
  simp only [decode, check_eq_ok_iff, headerReserved_headerWord, headerOpc_headerWord, not_lt, ne_eq, not_not] at h
  obtain ⟨hlen, hreserved, h⟩ := h
  split_ifs at h with hinit hblock hhchacha hxorks hzeroize
  · exact encode_of_decodeInit hlen hreserved hinit h
  · exact encode_of_decodeBlock hlen hreserved hblock h
  · exact encode_of_decodeHchacha hlen hreserved hhchacha h
  · exact encode_of_decodeXorks hlen hreserved hxorks h
  · exact encode_of_decodeZeroize hlen hreserved hzeroize h

/-- Settles O14: each packet is the one the encoder writes for its command. -/
theorem specPacketsDecode : Obligations.SpecPacketsDecode := by
  unfold Obligations.SpecPacketsDecode
  intro key
  exact ⟨decodeOfEncodeIsTheCommand (.init none key (List.replicate 12 0)) (by decide),
    decodeOfEncodeIsTheCommand (.xorks 4 [0xaa, 0xbb, 0xcc]) (by decide),
    decodeOfEncodeIsTheCommand (.hchacha key (List.replicate 16 7)) (by decide),
    decodeOfEncodeIsTheCommand (.block (some 0x80000001) key (List.replicate 12 9)) (by decide),
    decodeOfEncodeIsTheCommand .zeroize rfl⟩

end Sys2Proof.Machine
end

section
/-! Serving a request (spec/43_keystream.md section 2, spec/44_xor.md): the counter and the offset as one number that
every served byte increments, what the buffer holds behind and ahead of the offset, `XORKS` as one chain of checks,
and what a served request leaves. -/

namespace Sys2Proof.Machine

open Sys2Proof.Safety

/-! ### Counter and offset -/

/-- The counter and the offset as one number: the keystream bytes of the blocks with counters below `CTR - 1`, and
those consumed of that block, counted with 64 more so that no subtraction is needed (R162). -/
def progress (s : State) : Nat := 64 * s.CTR.toNat + s.OFF.val

/-- R165 in terms of `progress`: a request exhausts the counter exactly when it would pass the end of the block with
counter 0xFFFFFFFE. -/
theorem not_exhausts_iff (s : State) (n : Nat) : ¬ exhausts s n ↔ progress s + n ≤ 64 * 2 ^ 32 := by
  have hctr : s.CTR.toNat < 2 ^ 32 := s.CTR.isLt
  have hoff : s.OFF.val < 65 := s.OFF.isLt
  simp only [exhausts, freshBlocks, progress]
  omega

/-- A byte is served from the buffer as it is, or from the one REFILL leaves in place of an empty buffer. -/
theorem xorByte_serves_from (x : Byte) (s : State) :
    ∃ u, u.OFF.val < 64 ∧ xorByte x s = xorByte x u ∧ (u = s ∨ s.OFF = 64 ∧ u = refill s) := by
  by_cases hempty : s.OFF = 64
  · exact ⟨refill s, by simp [refill_eq], xorByte_of_empty x s hempty, .inr ⟨hempty, rfl⟩⟩
  · exact ⟨s, by omega, rfl, .inl rfl⟩

theorem xorByte_CTR_of_lt (x : Byte) (s : State) (h : s.OFF.val < 64) : (xorByte x s).2.CTR = s.CTR := by
  rw [xorByte_of_nonempty x s (Fin.ne_of_lt h)]

theorem xorByte_OFF_of_lt (x : Byte) (s : State) (h : s.OFF.val < 64) :
    (xorByte x s).2.OFF.val = s.OFF.val + 1 :=
  (xorByteConsumesOneByte.2 x s h).2.2.1

theorem bufByte_xorByte_of_lt (x : Byte) (s : State) (h : s.OFF.val < 64) (i : Nat) :
    bufByte (xorByte x s).2.BUF i = if i = s.OFF.val then 0 else bufByte s.BUF i :=
  (xorByteConsumesOneByte.2 x s h).2.1 i

/-- An empty buffer at the block before `CTR` and a full one at the block `CTR`, which REFILL turns it into, are the
same position. -/
theorem progress_refill (s : State) (hempty : s.OFF = 64) (hfits : progress s < 64 * 2 ^ 32) :
    progress (refill s) = progress s := by
  have hoff : s.OFF.val = 64 := by rw [hempty]; rfl
  have hctr : s.CTR ≠ 0xFFFFFFFF := by
    intro hmax
    rw [progress, hmax, hoff] at hfits
    exact absurd hfits (by decide)
  have hzero : (refill s).OFF.val = 0 := by rw [refill_eq]; rfl
  rw [progress, progress, toNat_refill_CTR s hctr, hoff, hzero]
  omega

theorem progress_xorByte (x : Byte) (s : State) (hfits : progress s < 64 * 2 ^ 32) :
    progress (xorByte x s).2 = progress s + 1 := by
  obtain ⟨u, hoff, hserve, hu⟩ := xorByte_serves_from x s
  have hprogress : progress u = progress s := by
    rcases hu with rfl | ⟨hempty, rfl⟩
    · rfl
    · exact progress_refill s hempty hfits
  rw [hserve, ← hprogress, progress, progress, xorByte_CTR_of_lt x u hoff, xorByte_OFF_of_lt x u hoff, Nat.add_assoc]

theorem progress_xorBytes (data : List Byte) (s : State) (hfits : progress s + data.length ≤ 64 * 2 ^ 32) :
    progress (xorBytes data s).2 = progress s + data.length := by
  induction data generalizing s with
  | nil => rfl
  | cons x data ih =>
    rw [List.length_cons] at hfits ⊢
    have hbyte := progress_xorByte x s (by omega)
    rw [xorBytes_cons, ih _ (by omega), hbyte]
    omega

theorem xorByte_OFF_ne_zero (x : Byte) (s : State) : (xorByte x s).2.OFF ≠ 0 := by
  obtain ⟨u, hoff, hserve, -⟩ := xorByte_serves_from x s
  rw [hserve, ne_eq, Fin.ext_iff, xorByte_OFF_of_lt x u hoff]
  exact Nat.succ_ne_zero _

theorem xorBytes_OFF_ne_zero (data : List Byte) (s : State) (h : s.OFF ≠ 0 ∨ data ≠ []) :
    (xorBytes data s).2.OFF ≠ 0 := by
  induction data generalizing s with
  | nil => simpa using h
  | cons x data ih => exact ih _ (.inl (xorByte_OFF_ne_zero x s))

/-! ### The buffer -/

/-- The bytes ahead of the offset are those of the last block generated (R24, R38 point 6). -/
def HoldsLastBlock (s : State) : Prop :=
  ∀ i, s.OFF.val ≤ i → i < 64 → bufByte s.BUF i = bufByte (blockBytes s.K (s.CTR - 1) s.N) i

/-- The bytes behind the offset are 0 (R24, R38 point 3). -/
def ConsumedCleared (s : State) : Prop := ∀ i, i < s.OFF.val → bufByte s.BUF i = 0

theorem holdsLastBlock_refill (s : State) : HoldsLastBlock (refill s) := by
  intro i _ _
  simp [refill_eq]

theorem consumedCleared_refill (s : State) : ConsumedCleared (refill s) := by
  intro i hi
  simp [refill_eq] at hi

theorem holdsLastBlock_xorByte (x : Byte) (s : State) (h : s.OFF = 64 ∨ HoldsLastBlock s) :
    HoldsLastBlock (xorByte x s).2 := by
  obtain ⟨u, hoff, hserve, hu⟩ := xorByte_serves_from x s
  have hlast : HoldsLastBlock u := by
    rcases hu with rfl | ⟨-, rfl⟩
    · exact h.resolve_left (Fin.ne_of_lt hoff)
    · exact holdsLastBlock_refill s
  obtain ⟨hK, hN, -⟩ := xorByte_keeps x u
  rw [hserve]
  intro i hi hlt
  rw [xorByte_OFF_of_lt x u hoff] at hi
  rw [bufByte_xorByte_of_lt x u hoff, if_neg (by omega), xorByte_CTR_of_lt x u hoff, hK, hN]
  exact hlast i (by omega) hlt

theorem consumedCleared_xorByte (x : Byte) (s : State) (h : s.OFF = 64 ∨ ConsumedCleared s) :
    ConsumedCleared (xorByte x s).2 := by
  obtain ⟨u, hoff, hserve, hu⟩ := xorByte_serves_from x s
  have hclear : ConsumedCleared u := by
    rcases hu with rfl | ⟨-, rfl⟩
    · exact h.resolve_left (Fin.ne_of_lt hoff)
    · exact consumedCleared_refill s
  rw [hserve]
  intro i hi
  rw [xorByte_OFF_of_lt x u hoff] at hi
  rw [bufByte_xorByte_of_lt x u hoff]
  split_ifs
  · rfl
  · exact hclear i (by omega)

theorem holdsLastBlock_xorBytes (data : List Byte) (s : State) (h : HoldsLastBlock s) :
    HoldsLastBlock (xorBytes data s).2 := by
  induction data generalizing s with
  | nil => exact h
  | cons x data ih => exact ih _ (holdsLastBlock_xorByte x s (.inr h))

theorem consumedCleared_xorBytes (data : List Byte) (s : State) (h : ConsumedCleared s) :
    ConsumedCleared (xorBytes data s).2 := by
  induction data generalizing s with
  | nil => exact h
  | cons x data ih => exact ih _ (consumedCleared_xorByte x s (.inr h))

/-- A request that needs a block leaves the rest of the last block in the buffer, whatever was in it before. -/
theorem xorBytes_past_buffer (data : List Byte) (s : State) (h : 64 - s.OFF.val < data.length) :
    HoldsLastBlock (xorBytes data s).2 ∧ ConsumedCleared (xorBytes data s).2 := by
  induction data generalizing s with
  | nil => exact absurd h (Nat.not_lt_zero _)
  | cons x data ih =>
    rw [xorBytes_cons]
    by_cases hempty : s.OFF = 64
    · exact ⟨holdsLastBlock_xorBytes data _ (holdsLastBlock_xorByte x s (.inl hempty)),
        consumedCleared_xorBytes data _ (consumedCleared_xorByte x s (.inl hempty))⟩
    · refine ih _ ?_
      rw [List.length_cons] at h
      rw [xorByte_OFF_of_lt x s (by omega)]
      omega

/-- A request within the buffer clears the bytes it consumes and moves the offset past them (R165, R190). -/
theorem xorBytes_within_buffer (data : List Byte) (s : State) (h : data.length ≤ 64 - s.OFF.val) :
    (xorBytes data s).2.CTR = s.CTR ∧ (xorBytes data s).2.OFF.val = s.OFF.val + data.length ∧
    ∀ i, bufByte (xorBytes data s).2.BUF i =
      if s.OFF.val ≤ i ∧ i < s.OFF.val + data.length then 0 else bufByte s.BUF i := by
  induction data generalizing s with
  | nil => exact ⟨rfl, rfl, fun i => (if_neg fun hi => absurd hi.2 (Nat.not_lt.mpr hi.1)).symm⟩
  | cons x data ih =>
    rw [List.length_cons] at h ⊢
    have hoff : s.OFF.val < 64 := by omega
    have hmoved := xorByte_OFF_of_lt x s hoff
    obtain ⟨hctr, hend, hbuf⟩ := ih (xorByte x s).2 (by omega)
    rw [xorBytes_cons]
    refine ⟨hctr.trans (xorByte_CTR_of_lt x s hoff), hend.trans (by omega), fun i => ?_⟩
    rw [hbuf, hmoved, bufByte_xorByte_of_lt x s hoff]
    by_cases hfirst : i = s.OFF.val
    · rw [if_pos hfirst, ite_self, if_pos (by omega)]
    · rw [if_neg hfirst]
      exact if_congr (by omega) rfl rfl

/-! ### The command -/

theorem ready_of_ne {s : State} (huninit : s.ST ≠ .uninit) (hexhausted : s.ST ≠ .exhausted) : s.ST = .ready := by
  cases hst : s.ST with
  | uninit => exact absurd hst huninit
  | ready => rfl
  | exhausted => exact absurd hst hexhausted

/-- `XORKS` in full: its checks in order (R185), then the bytes. An empty request passes the check of the counter, and
serving it changes nothing. -/
theorem exec_xorks_eq (olen : Nat) (data : List Byte) (s : State) :
    exec (.xorks olen data) s = .next
      (if s.ST = .uninit then respond .notReady [] s
       else if olen ≠ data.length then respond .bufferLengthMismatch [] s
       else if s.ST = .exhausted then respond .counterExhausted [] s
       else if exhausts s data.length then respond .counterExhausted [] { s with ST := .exhausted }
       else respond .ok (xorBytes data s).1 (xorBytes data s).2) := by
  split_ifs with huninit hlen hexhausted hexh
  · exact exec_xorks_of_uninit olen data s huninit
  · exact exec_xorks_of_length_ne olen data s huninit hlen
  all_goals
    rw [ne_eq, not_not] at hlen
    subst hlen
  · exact exec_xorks_of_exhausted data s hexhausted
  all_goals have hready := ready_of_ne huninit hexhausted
  · exact exec_xorks_of_not_admissible data s hready ((admissible_eq_false_iff_exhausts s _).mpr hexh)
  · exact exec_xorks_of_not_exhausts data s hready hexh

/-- Settles O41: the check of the counter is the last before the bytes are served. -/
theorem exhaustionIsDecidedUpFront : Obligations.ExhaustionIsDecidedUpFront := by
  unfold Obligations.ExhaustionIsDecidedUpFront
  intro data s hready
  refine ⟨fun hexh => ?_, fun hfits => ⟨_, exec_xorks_of_not_exhausts data s hready hfits, rfl, ?_⟩⟩
  · exact exec_xorks_of_not_admissible data s hready ((admissible_eq_false_iff_exhausts s _).mpr hexh)
  · obtain ⟨-, -, hST, -⟩ := xorBytes_keeps data s
    exact hST.trans hready

/-! ### What a served request leaves -/

theorem bufByte_of_ge (b : Vector Byte 64) (i : Nat) (h : 64 ≤ i) : bufByte b i = 0 := by
  simp [bufByte, h]

theorem xorBytes_past_buffer_counter (data : List Byte) (s : State) (hfits : ¬ exhausts s data.length)
    (hlong : 64 - s.OFF.val < data.length) :
    (xorBytes data s).2.CTR.toNat = s.CTR.toNat + freshBlocks s data.length ∧
    (xorBytes data s).2.OFF.val = data.length - (64 - s.OFF.val) - 64 * (freshBlocks s data.length - 1) := by
  have hdata : data ≠ [] := List.ne_nil_of_length_pos (by omega)
  have hpos : (xorBytes data s).2.OFF.val ≠ 0 := Fin.val_ne_of_ne (xorBytes_OFF_ne_zero data s (.inr hdata))
  have hprogress := progress_xorBytes data s ((not_exhausts_iff s _).mp hfits)
  simp only [progress, freshBlocks] at hprogress ⊢
  omega

/-- After a request that needs a block, the buffer is the last block with its consumed bytes cleared. -/
theorem xorBytes_past_buffer_bytes (data : List Byte) (s : State) (hlong : 64 - s.OFF.val < data.length) (i : Nat) :
    bufByte (xorBytes data s).2.BUF i =
      if i < (xorBytes data s).2.OFF.val then 0
      else bufByte (blockBytes s.K ((xorBytes data s).2.CTR - 1) s.N) i := by
  obtain ⟨hlast, hclear⟩ := xorBytes_past_buffer data s hlong
  obtain ⟨hK, hN, -⟩ := xorBytes_keeps data s
  split_ifs with hi
  · exact hclear i hi
  · by_cases hlt : i < 64
    · rw [hlast i (by omega) hlt, hK, hN]
    · rw [bufByte_of_ge _ i (by omega), bufByte_of_ge _ i (by omega)]

theorem idle_respond (rc : ResultCode) (payload : List Byte) (s : State) : Idle (respond rc payload s) :=
  ⟨rfl, rfl, rfl, rfl⟩

/-- Settles O42: the bytes are served one at a time; a request within the buffer and one past it leave the counter,
the offset and the buffer as the two lemmas say, and the response ends the command. -/
theorem xorksServesTheRequest : Obligations.XorksServesTheRequest := by
  unfold Obligations.XorksServesTheRequest
  intro data s hready hfits
  obtain ⟨hK, hN, hST, hVAR, -, -, hinput, hrsp⟩ := xorBytes_keeps data s
  refine ⟨_, exec_xorks_of_not_exhausts data s hready hfits, ?_, xorBytes_within_buffer data s, fun hlong => ?_,
    idle_respond .ok _ _, rfl, hK, hN, hVAR, hST.trans hready, hinput⟩
  · rw [respond_rsp, hrsp, fst_xorBytes]
    rfl
  · obtain ⟨hctr, hoff⟩ := xorBytes_past_buffer_counter data s hfits hlong
    exact ⟨hctr, hoff, xorBytes_past_buffer_bytes data s hlong⟩

end Sys2Proof.Machine
end

section
/-! The keystream in order (spec/43_keystream.md section 2, spec/44_xor.md section 2): the position of a context in its
keystream, requests served from a position, requests cut in two, and what `XORKS` lets out of the data. -/

namespace Sys2Proof.Machine

open Sys2Proof.Safety

/-! ### The keystream -/

section Keystream

variable (kw : Vector Word 8) (nw : Vector Word 3)

/-- Where a byte stands counts, not the block it is counted from. -/
theorem streamByte_eq_of_same_place {c c' : Word} {q q' : Nat} (h : 64 * c.toNat + q = 64 * c'.toNat + q') :
    streamByte kw nw c q = streamByte kw nw c' q' := by
  have hblock : c + BitVec.ofNat 32 (q / 64) = c' + BitVec.ofNat 32 (q' / 64) := by
    have hsum : c.toNat + q / 64 = c'.toNat + q' / 64 := by omega
    simpa [BitVec.ofNat_add] using congrArg (BitVec.ofNat 32) hsum
  have hplace : q % 64 = q' % 64 := by omega
  rw [streamByte, streamByte, hblock, hplace]

theorem streamByte_of_lt (c : Word) {q : Nat} (h : q < 64) :
    streamByte kw nw c q = bufByte (blockBytes kw c nw) q := by
  simp [streamByte, Nat.div_eq_of_lt h, Nat.mod_eq_of_lt h]

end Keystream

theorem toNat_sub_one (c : Word) (h : 1 ≤ c.toNat) : (c - 1).toNat = c.toNat - 1 := by
  bv_omega

/-! ### A position in the keystream -/

section Position

variable {s : State} {kw : Vector Word 8} {nw : Vector Word 3} {c0 : Word} {q : Nat}

/-- R162 gives the counter and the offset as quotient and remainder of one equation. -/
theorem progress_eq_iff (s : State) (c0 : Word) (q : Nat) :
    progress s = 64 * c0.toNat + 64 + q ∧ s.OFF ≠ 0 ↔
      s.CTR.toNat = c0.toNat + (q + 63) / 64 ∧ s.OFF.val = if q % 64 = 0 then 64 else q % 64 := by
  have hoff : s.OFF.val < 65 := s.OFF.isLt
  simp only [progress, ne_eq, Fin.ext_iff, Fin.val_zero]
  split_ifs <;> omega

/-- The block in the buffer is the one the position falls in. -/
theorem streamByte_in_buffer (hprogress : progress s = 64 * c0.toNat + 64 + q) {i : Nat} (hi : s.OFF.val ≤ i)
    (hlt : i < 64) (hoff : s.OFF ≠ 0) :
    streamByte kw nw c0 (64 * (q / 64) + i) = bufByte (blockBytes kw (s.CTR - 1) nw) i := by
  have hpos : s.OFF.val ≠ 0 := Fin.val_ne_of_ne hoff
  rw [progress] at hprogress
  rw [← streamByte_of_lt _ _ _ hlt]
  apply streamByte_eq_of_same_place
  rw [toNat_sub_one _ (by omega)]
  omega

theorem atPosition_iff :
    AtPosition s kw nw c0 q ↔
      s.ST = .ready ∧ s.K = kw ∧ s.N = nw ∧ progress s = 64 * c0.toNat + 64 + q ∧ s.OFF ≠ 0 ∧
      HoldsLastBlock s := by
  constructor
  · rintro ⟨hready, rfl, rfl, hcounter, hoffset, hbuffer⟩
    obtain ⟨hprogress, hoff⟩ := (progress_eq_iff s c0 q).mpr ⟨hcounter, hoffset⟩
    refine ⟨hready, rfl, rfl, hprogress, hoff, fun i hi hlt => ?_⟩
    rw [hbuffer i hi hlt, streamByte_in_buffer hprogress hi hlt hoff]
  · rintro ⟨hready, rfl, rfl, hprogress, hoff, hlast⟩
    obtain ⟨hcounter, hoffset⟩ := (progress_eq_iff s c0 q).mp ⟨hprogress, hoff⟩
    refine ⟨hready, rfl, rfl, hcounter, hoffset, fun i hi hlt => ?_⟩
    rw [hlast i hi hlt, streamByte_in_buffer hprogress hi hlt hoff]

theorem requestByte_of_atPosition (h : AtPosition s kw nw c0 q) (j : Nat) :
    requestByte s j = streamByte kw nw c0 (q + j) := by
  obtain ⟨-, rfl, rfl, hprogress, hoff, hlast⟩ := atPosition_iff.mp h
  rw [progress] at hprogress
  rw [requestByte]
  split_ifs with hbuffered
  · rw [hlast _ (by omega) (by omega), ← streamByte_of_lt _ _ _ (by omega)]
    apply streamByte_eq_of_same_place
    rw [toNat_sub_one _ (by omega)]
    omega
  · exact streamByte_eq_of_same_place _ _ (by omega)

/-- Serving bytes moves the position on by their number. -/
theorem atPosition_xorBytes (data : List Byte) (h : AtPosition s kw nw c0 q) (hfits : ¬ exhausts s data.length) :
    AtPosition (xorBytes data s).2 kw nw c0 (q + data.length) := by
  obtain ⟨hready, hK, hN, hprogress, hoff, hlast⟩ := atPosition_iff.mp h
  obtain ⟨hK', hN', hST', -⟩ := xorBytes_keeps data s
  refine atPosition_iff.mpr ⟨hST'.trans hready, hK'.trans hK, hN'.trans hN, ?_,
    xorBytes_OFF_ne_zero data s (.inl hoff), holdsLastBlock_xorBytes data s hlast⟩
  rw [progress_xorBytes data s ((not_exhausts_iff s _).mp hfits), hprogress, Nat.add_assoc]

/-- The end of the keystream is the end of the counter (R168). -/
theorem exhausts_iff_of_atPosition (h : AtPosition s kw nw c0 q) (n : Nat) :
    exhausts s n ↔ 64 * (0xFFFFFFFF - c0.toNat) < q + n := by
  obtain ⟨-, -, -, hprogress, -⟩ := atPosition_iff.mp h
  have hc0 : c0.toNat < 2 ^ 32 := c0.isLt
  rw [← not_iff_not, not_exhausts_iff, hprogress]
  omega

end Position

/-- Settles O44: the bytes a request meets are those of the keystream from the position on, and serving them moves
the position; the request exhausts the counter exactly when it goes past the end. -/
theorem keystreamIsHandedOutInOrder : Obligations.KeystreamIsHandedOutInOrder := by
  unfold Obligations.KeystreamIsHandedOutInOrder
  intro kw nw c0 q data s hpos
  have hexh := exhausts_iff_of_atPosition hpos data.length
  refine ⟨fun hwithin => ?_, fun _ hpast => ?_⟩
  · have hfits : ¬ exhausts s data.length := by omega
    obtain ⟨-, -, -, -, -, -, -, hrsp⟩ := xorBytes_keeps data s
    have hstream : requestByte s = fun j => streamByte kw nw c0 (q + j) := funext (requestByte_of_atPosition hpos)
    refine ⟨_, exec_xorks_of_not_exhausts data s hpos.ready hfits, ?_, ?_⟩
    · rw [respond_rsp, hrsp, fst_xorBytes, hstream]
      rfl
    · obtain ⟨hready, hkey, hnonce, hcounter, hoffset, hbuffer⟩ := atPosition_xorBytes data hpos hfits
      exact ⟨hready, hkey, hnonce, hcounter, hoffset, hbuffer⟩
  · exact exec_xorks_of_not_admissible data s hpos.ready
      ((admissible_eq_false_iff_exhausts s _).mpr (hexh.mpr hpast))

/-! ### From INIT on -/

theorem atPosition_loadContext (payload : List Byte) (kw : Vector Word 8) (nw : Vector Word 3) (v : Variant) (c : Word)
    (s : State) : AtPosition (respond .ok payload (loadContext kw nw v c s)) kw nw c 0 :=
  ⟨rfl, rfl, rfl, rfl, rfl, fun _ hi hlt => absurd hlt (Nat.not_lt.mpr hi)⟩

/-- Settles O43: both variants load a context, which stands at position 0 of its keystream. -/
theorem initStartsTheKeystream : Obligations.InitStartsTheKeystream := by
  unfold Obligations.InitStartsTheKeystream
  intro ctr key nonce s hkey hnonce
  rcases hnonce with hclassic | hextended
  · exact ⟨_, exec_init_of_classic_nonce ctr s hkey hclassic, atPosition_loadContext ..,
      fun _ => ⟨rfl, rfl⟩, fun h => absurd (hclassic.symm.trans h) (by decide)⟩
  · exact ⟨_, exec_init_of_extended_nonce ctr s hkey hextended, atPosition_loadContext ..,
      fun h => absurd (hextended.symm.trans h) (by decide), fun _ => ⟨rfl, rfl⟩⟩

/-- Settles O30: the two `INIT`s load the same words, since the serialized subkey reads back as the subkey's words and
the reduced nonce as the words of `XNONCE`. -/
theorem extendedInitIsClassicInitWithTheSubkey : Obligations.ExtendedInitIsClassicInitWithTheSubkey := by
  unfold Obligations.ExtendedInitIsClassicInitWithTheSubkey
  intro ctr key xn s hkey hxn
  let subkey := subkeyWords (le32s 8 key) (le32s 4 (slice xn 0 16))
  have hhnonce : (slice xn 0 16).length = 16 := by rw [length_slice]; omega
  have hnonce : ([0, 0, 0, 0] ++ slice xn 16 8).length = 12 := by
    rw [List.length_append, length_slice, hxn]
    rfl
  refine ⟨respond .ok [] (loadContext subkey (xnonceWords xn) .classic (ctr.getD 0) s), ser32s subkey, ?_, ?_, ?_⟩
  · rw [hchachaAnswersTheSubkey, if_neg (not_not.mpr hkey), if_neg (not_not.mpr hhnonce)]
  · exact exec_init_of_extended_nonce ctr s hkey hxn
  · rw [exec_init_of_classic_nonce ctr s (length_ser32s subkey) hnonce, le32s_ser32s, ← xnonceWords_eq_le32s]

/-- The keystream that `INIT` starts does not depend on the state. -/
theorem exec_init_starts_one_keystream (ctr : Option Word) (key nonce : List Byte) (hkey : key.length = 32)
    (hnonce : nonce.length = 12 ∨ nonce.length = 24) :
    ∃ kw nw, ∀ s, ∃ t, exec (.init ctr key nonce) s = .next t ∧ AtPosition t kw nw (ctr.getD 0) 0 := by
  rcases hnonce with hclassic | hextended
  · exact ⟨_, _, fun s => ⟨_, exec_init_of_classic_nonce ctr s hkey hclassic, atPosition_loadContext ..⟩⟩
  · exact ⟨_, _, fun s => ⟨_, exec_init_of_extended_nonce ctr s hkey hextended, atPosition_loadContext ..⟩⟩

theorem length_xorWith (ks : Nat → Byte) (data : List Byte) : (xorWith ks data).length = data.length :=
  List.length_mapIdx

theorem xorWith_xorWith (ks : Nat → Byte) (data : List Byte) : xorWith ks (xorWith ks data) = data := by
  apply List.ext_getElem (by simp [length_xorWith])
  intro i _ _
  simp [xorWith]

/-- Settles O46: both times the data meets the keystream from position 0 on, and combining with it twice gives the
data back. -/
theorem transformIsSelfInverse : Obligations.TransformIsSelfInverse := by
  unfold Obligations.TransformIsSelfInverse
  intro ctr key nonce data s hkey hnonce hlen
  obtain ⟨kw, nw, hinit⟩ := exec_init_starts_one_keystream ctr key nonce hkey hnonce
  let ks := fun j => streamByte kw nw (ctr.getD 0) (0 + j)
  have hserve (d : List Byte) (hd : d.length = data.length) (u : State) (hu : AtPosition u kw nw (ctr.getD 0) 0) :
      ∃ t, exec (.xorks d.length d) u = .next t ∧ t.rsp = u.rsp ++ packetBeats (0x00 :: xorWith ks d) := by
    obtain ⟨t, hexec, hrsp, -⟩ := (keystreamIsHandedOutInOrder kw nw _ 0 d u hu).1 (by omega)
    exact ⟨t, hexec, hrsp⟩
  obtain ⟨t1, hinit1, hpos1⟩ := hinit s
  obtain ⟨t2, hxor1, hrsp1⟩ := hserve data rfl t1 hpos1
  obtain ⟨t3, hinit2, hpos2⟩ := hinit t2
  obtain ⟨t4, hxor2, hrsp2⟩ := hserve (xorWith ks data) (length_xorWith ks data) t3 hpos2
  rw [xorWith_xorWith] at hrsp2
  exact ⟨t1, t2, t3, t4, xorWith ks data, hinit1, hxor1, hrsp1, hinit2, hxor2, hrsp2⟩

/-! ### Requests cut in two -/

/-- The state as a response leaves it, without the responses: what a later request can depend on. -/
def withoutResponse (s : State) : State := { respond .ok [] s with rsp := [] }

theorem withoutResponse_respond (rc : ResultCode) (payload : List Byte) (s : State) :
    withoutResponse (respond rc payload s) = withoutResponse s := rfl

theorem respond_ok_without_rsp (payload : List Byte) (s : State) :
    { respond .ok payload s with rsp := [] } = withoutResponse s := rfl

/-- What serving a byte leaves does not depend on what a response writes. -/
theorem withoutResponse_xorByte (x : Byte) (s : State) :
    withoutResponse (xorByte x (withoutResponse s)).2 = withoutResponse (xorByte x s).2 := by
  by_cases hempty : s.OFF = 64
  · rw [xorByte_of_empty_eq x s hempty, xorByte_of_empty_eq x (withoutResponse s) hempty]
    rfl
  · rw [xorByte_of_nonempty x s hempty, xorByte_of_nonempty x (withoutResponse s) hempty]
    rfl

theorem withoutResponse_xorBytes (data : List Byte) (s : State) :
    withoutResponse (xorBytes data (withoutResponse s)).2 = withoutResponse (xorBytes data s).2 := by
  induction data generalizing s with
  | nil => rfl
  | cons x data ih =>
    calc withoutResponse (xorBytes data (xorByte x (withoutResponse s)).2).2
      _ = withoutResponse (xorBytes data (withoutResponse (xorByte x (withoutResponse s)).2)).2 := (ih _).symm
      _ = withoutResponse (xorBytes data (withoutResponse (xorByte x s).2)).2 := by rw [withoutResponse_xorByte]
      _ = withoutResponse (xorBytes data (xorByte x s).2).2 := ih _

/-- A response between two requests changes nothing the second one reads. -/
theorem fst_xorBytes_respond (rc : ResultCode) (payload data : List Byte) (s : State) :
    (xorBytes data (respond rc payload s)).1 = (xorBytes data s).1 := by
  rw [fst_xorBytes, fst_xorBytes]
  rfl

theorem withoutResponse_xorBytes_respond (rc : ResultCode) (payload data : List Byte) (s : State) :
    withoutResponse (xorBytes data (respond rc payload s)).2 = withoutResponse (xorBytes data s).2 := by
  rw [← withoutResponse_xorBytes, withoutResponse_respond, withoutResponse_xorBytes]

/-- Both parts of a request that fits, fit. -/
theorem not_exhausts_parts (a b : List Byte) (s : State) (hfits : ¬ exhausts s (a ++ b).length) :
    ¬ exhausts s a.length ∧ ¬ exhausts (xorBytes a s).2 b.length := by
  rw [not_exhausts_iff, List.length_append] at hfits
  rw [not_exhausts_iff, not_exhausts_iff, progress_xorBytes a s (by omega)]
  omega

/-- Settles O45: serving `a ++ b` is serving `a` and then `b`, and the response in between is not seen. -/
theorem chunkingIsInvisible : Obligations.ChunkingIsInvisible := by
  unfold Obligations.ChunkingIsInvisible
  intro a b s hready hfits
  obtain ⟨hfitsA, hfitsB⟩ := not_exhausts_parts a b s hfits
  obtain ⟨-, -, hST, -, -, -, -, hrspA⟩ := xorBytes_keeps a s
  let t1 := respond .ok (xorBytes a s).1 (xorBytes a s).2
  obtain ⟨-, -, -, -, -, -, -, hrspB⟩ := xorBytes_keeps b t1
  obtain ⟨-, -, -, -, -, -, -, hrsp⟩ := xorBytes_keeps (a ++ b) s
  refine ⟨_, t1, _, (xorBytes a s).1, (xorBytes b (xorBytes a s).2).1,
    exec_xorks_of_not_exhausts (a ++ b) s hready hfits, exec_xorks_of_not_exhausts a s hready hfitsA,
    exec_xorks_of_not_exhausts b t1 (hST.trans hready) hfitsB, ?_, ?_, ?_, ?_⟩
  · exact congrArg (· ++ _) hrspA
  · rw [respond_rsp, hrspB, fst_xorBytes_respond]
    rfl
  · rw [respond_rsp, hrsp, xorBytes_append]
    rfl
  · rw [respond_ok_without_rsp, respond_ok_without_rsp, withoutResponse_xorBytes_respond, xorBytes_append]

/-! ### What the state shows of the data -/

theorem snd_xorByte_eq (x y : Byte) (s : State) : (xorByte x s).2 = (xorByte y s).2 := rfl

/-- The state served bytes leave depends on their number only (R195). -/
theorem snd_xorBytes_of_length_eq (a b : List Byte) (s : State) (h : a.length = b.length) :
    (xorBytes a s).2 = (xorBytes b s).2 := by
  induction a generalizing b s with
  | nil => rw [List.length_eq_zero_iff.mp h.symm]
  | cons x a ih =>
    cases b with
    | nil => cases h
    | cons y b => exact (ih b (xorByte x s).2 (Nat.succ.inj h)).trans (by rw [snd_xorByte_eq x y s, xorBytes_cons])

/-- Settles O47: the checks look at the lengths and the state only, and so does the state the bytes leave. -/
theorem stateDoesNotDependOnTheData : Obligations.StateDoesNotDependOnTheData := by
  unfold Obligations.StateDoesNotDependOnTheData
  intro olen a b s hlen
  refine ⟨_, _, exec_xorks_eq olen a s, exec_xorks_eq olen b s, ?_⟩
  rw [hlen]
  split_ifs
  case neg => rw [respond_ok_without_rsp, respond_ok_without_rsp, snd_xorBytes_of_length_eq a b s hlen]
  all_goals rfl

end Sys2Proof.Machine
end

section
/-! The permutation as a whole (spec/41_permutation.md sections 1 and 2): quarter rounds on disjoint words commute, and
every step of the permutation can be undone. With them the block function beside HChaCha20 (spec/42_hchacha.md R142),
and the constant words and conversions of bytes (spec/40_state_init.md R101, spec/00_scope.md R11). -/

namespace Sys2Proof.Machine

/-! ### Quarter rounds on a group of words -/

theorem words_ext {v w : Vector Word 16} (h : ∀ i : Fin 16, v[i] = w[i]) : v = w :=
  Vector.ext fun k hk => h ⟨k, hk⟩

/-- The four places a quarter round works on. -/
def groupPlaces (g : Fin 16 × Fin 16 × Fin 16 × Fin 16) : List (Fin 16) := [g.1, g.2.1, g.2.2.1, g.2.2.2]

/-- `QR` on a group, as `roundOver` runs it (R113, R114). -/
def quarterRoundOn (g : Fin 16 × Fin 16 × Fin 16 × Fin 16) (w : Vector Word 16) : Vector Word 16 :=
  quarterRound g.1 g.2.1 g.2.2.1 g.2.2.2 w

theorem roundOver_eq_foldl (groups : List (Fin 16 × Fin 16 × Fin 16 × Fin 16)) (w : Vector Word 16) :
    roundOver groups w = groups.foldl (fun w g => quarterRoundOn g w) w := rfl

theorem nodup_groupPlaces_iff (a b c d : Fin 16) :
    (groupPlaces (a, b, c, d)).Nodup ↔ a ≠ b ∧ a ≠ c ∧ a ≠ d ∧ b ≠ c ∧ b ≠ d ∧ c ≠ d := by
  simp [groupPlaces, and_assoc]

theorem mem_groupPlaces_iff (a b c d i : Fin 16) :
    i ∈ groupPlaces (a, b, c, d) ↔ i = a ∨ i = b ∨ i = c ∨ i = d := by
  simp [groupPlaces]

section OneGroup

variable {g : Fin 16 × Fin 16 × Fin 16 × Fin 16} (hg : (groupPlaces g).Nodup) {i : Fin 16}

include hg

theorem getElem_quarterRoundOn_of_notMem (hi : i ∉ groupPlaces g) (w : Vector Word 16) :
    (quarterRoundOn g w)[i] = w[i] := by
  obtain ⟨a, b, c, d⟩ := g
  obtain ⟨hab, hac, had, hbc, hbd, hcd⟩ := (nodup_groupPlaces_iff a b c d).mp hg
  simp only [mem_groupPlaces_iff, not_or] at hi
  obtain ⟨hia, hib, hic, hid⟩ := hi
  rw [quarterRoundOn, quarterRoundMixesFourWords a b c d w hab hac had hbc hbd hcd i, if_neg hia, if_neg hib,
    if_neg hic, if_neg hid]

/-- A word of the group depends on the words of the group only. -/
theorem getElem_quarterRoundOn_congr (hi : i ∈ groupPlaces g) {v w : Vector Word 16}
    (hvw : ∀ j ∈ groupPlaces g, v[j] = w[j]) : (quarterRoundOn g v)[i] = (quarterRoundOn g w)[i] := by
  have hword := hvw i hi
  obtain ⟨a, b, c, d⟩ := g
  obtain ⟨hab, hac, had, hbc, hbd, hcd⟩ := (nodup_groupPlaces_iff a b c d).mp hg
  simp only [mem_groupPlaces_iff, forall_eq_or_imp, forall_eq] at hvw
  obtain ⟨ha, hb, hc, hd⟩ := hvw
  rw [quarterRoundOn, quarterRoundOn, quarterRoundMixesFourWords a b c d v hab hac had hbc hbd hcd i,
    quarterRoundMixesFourWords a b c d w hab hac had hbc hbd hcd i, ha, hb, hc, hd, hword]

end OneGroup

/-- Quarter rounds on disjoint groups do not see each other (R117). -/
theorem quarterRoundOn_comm {g h : Fin 16 × Fin 16 × Fin 16 × Fin 16} (hg : (groupPlaces g).Nodup)
    (hh : (groupPlaces h).Nodup) (hgh : (groupPlaces g).Disjoint (groupPlaces h)) (w : Vector Word 16) :
    quarterRoundOn g (quarterRoundOn h w) = quarterRoundOn h (quarterRoundOn g w) := by
  refine words_ext fun i => ?_
  by_cases hig : i ∈ groupPlaces g
  · rw [getElem_quarterRoundOn_of_notMem hh (hgh hig)]
    exact getElem_quarterRoundOn_congr hg hig fun j hj => getElem_quarterRoundOn_of_notMem hh (hgh hj) w
  · rw [getElem_quarterRoundOn_of_notMem hg hig]
    by_cases hih : i ∈ groupPlaces h
    · exact (getElem_quarterRoundOn_congr hh hih fun j hj =>
        getElem_quarterRoundOn_of_notMem hg (hgh.symm hj) w).symm
    · rw [getElem_quarterRoundOn_of_notMem hh hih, getElem_quarterRoundOn_of_notMem hh hih,
        getElem_quarterRoundOn_of_notMem hg hig]

/-- No word stands in two groups, or twice in one: true of both passes (R113, R114). -/
def SeparateGroups (groups : List (Fin 16 × Fin 16 × Fin 16 × Fin 16)) : Prop :=
  (groups.flatMap groupPlaces).Nodup

theorem separateGroups_columnGroups : SeparateGroups columnGroups := by
  unfold SeparateGroups
  decide

theorem separateGroups_diagonalGroups : SeparateGroups diagonalGroups := by
  unfold SeparateGroups
  decide

section Pass

variable {groups : List (Fin 16 × Fin 16 × Fin 16 × Fin 16)} (hsep : SeparateGroups groups)

include hsep

theorem SeparateGroups.nodup {g : Fin 16 × Fin 16 × Fin 16 × Fin 16} (hg : g ∈ groups) : (groupPlaces g).Nodup :=
  (List.nodup_flatMap.mp hsep).1 g hg

theorem SeparateGroups.disjoint {g h : Fin 16 × Fin 16 × Fin 16 × Fin 16} (hg : g ∈ groups) (hh : h ∈ groups)
    (hgh : g ≠ h) : (groupPlaces g).Disjoint (groupPlaces h) := by
  have hsymm : Std.Symm (Function.onFun List.Disjoint groupPlaces) := ⟨fun _ _ h => h.symm⟩
  exact (List.nodup_flatMap.mp hsep).2.forall hg hh hgh

theorem roundOver_perm {groups' : List (Fin 16 × Fin 16 × Fin 16 × Fin 16)} (hperm : groups'.Perm groups)
    (w : Vector Word 16) : roundOver groups' w = roundOver groups w := by
  refine (hperm.symm.foldl_eq' (fun g hg h hh z => ?_) w).symm
  by_cases hgh : g = h
  · rw [hgh]
  · exact quarterRoundOn_comm (hsep.nodup hh) (hsep.nodup hg) (hsep.disjoint hh hg (Ne.symm hgh)) z

end Pass

/-- Settles O19: the groups of either pass share no word, so their quarter rounds commute. -/
theorem quarterRoundsOfAPassCommute : Obligations.QuarterRoundsOfAPassCommute := by
  unfold Obligations.QuarterRoundsOfAPassCommute
  exact fun groups w => ⟨fun hperm => roundOver_perm separateGroups_columnGroups hperm w,
    fun hperm => roundOver_perm separateGroups_diagonalGroups hperm w⟩

/-! ### The permutation can be undone -/

theorem rotateRight_rotateLeft (v : Word) {n : Nat} (hn : n < 32) : (v.rotateLeft n).rotateRight n = v := by
  ext i hi
  simp only [BitVec.getElem_rotateRight, BitVec.getElem_rotateLeft, Nat.mod_eq_of_lt hn]
  split_ifs with hlow hhigh hhigh
  · omega
  · congr 1
    omega
  · congr 1
    omega
  · omega

theorem rotateLeft_injective {n : Nat} (hn : n < 32) : Function.Injective fun v : Word => v.rotateLeft n :=
  Function.LeftInverse.injective (g := fun v : Word => v.rotateRight n) fun v => rotateRight_rotateLeft v hn

/-- Each step of a half round can be undone by the words it leaves in place. -/
theorem halfRound_injective {a b c d : Fin 16} (hab : a ≠ b) (hac : a ≠ c) (had : a ≠ d) (hbc : b ≠ c)
    (hbd : b ≠ d) (hcd : c ≠ d) {m n : Nat} (hm : m < 32) (hn : n < 32) :
    Function.Injective (halfRound a b c d m n) := by
  intro v w h
  have hword (i : Fin 16) : (halfRound a b c d m n v)[i] = (halfRound a b c d m n w)[i] := by rw [h]
  simp only [getElem_halfRound hab hac had hbc hbd hcd hm hn] at hword
  have ha := hword a
  have hb := hword b
  have hc := hword c
  have hd := hword d
  simp only [if_true, if_neg hab.symm, if_neg hac.symm, if_neg hbc.symm, if_neg had.symm, if_neg hbd.symm,
    if_neg hcd.symm] at ha hb hc hd
  have hvd : v[d] = w[d] := by
    have hxor : v[d] ^^^ (v[a] + v[b]) = w[d] ^^^ (w[a] + w[b]) := rotateLeft_injective hm hd
    rwa [ha, BitVec.xor_left_inj] at hxor
  have hvc : v[c] = w[c] := by rwa [hd, BitVec.add_left_inj] at hc
  have hvb : v[b] = w[b] := by
    have hxor := rotateLeft_injective hn hb
    rwa [hc, BitVec.xor_left_inj] at hxor
  have hva : v[a] = w[a] := by rwa [hvb, BitVec.add_left_inj] at ha
  refine words_ext fun i => ?_
  by_cases hia : i = a
  · rw [hia, hva]
  by_cases hib : i = b
  · rw [hib, hvb]
  by_cases hic : i = c
  · rw [hic, hvc]
  by_cases hid : i = d
  · rw [hid, hvd]
  simpa only [if_neg hia, if_neg hib, if_neg hic, if_neg hid] using hword i

theorem quarterRoundOn_injective {g : Fin 16 × Fin 16 × Fin 16 × Fin 16} (hg : (groupPlaces g).Nodup) :
    Function.Injective (quarterRoundOn g) := by
  obtain ⟨a, b, c, d⟩ := g
  obtain ⟨hab, hac, had, hbc, hbd, hcd⟩ := (nodup_groupPlaces_iff a b c d).mp hg
  have hhalf {m n : Nat} (hm : m < 32) (hn : n < 32) := halfRound_injective hab hac had hbc hbd hcd hm hn
  intro v w h
  simp only [quarterRoundOn, quarterRound_eq_halfRound] at h
  exact hhalf (by decide) (by decide) (hhalf (by decide) (by decide) h)

theorem roundOver_injective {groups : List (Fin 16 × Fin 16 × Fin 16 × Fin 16)}
    (hnodup : ∀ g ∈ groups, (groupPlaces g).Nodup) : Function.Injective (roundOver groups) := by
  induction groups with
  | nil => exact Function.injective_id
  | cons g groups ih =>
    rw [List.forall_mem_cons] at hnodup
    exact (ih hnodup.2).comp (quarterRoundOn_injective hnodup.1)

theorem permWords_eq_iterate (w : Vector Word 16) : permWords w = doubleRound^[10] w := by
  rw [permWords, repeatTimes_eq_iterate, Config.doubleRounds]

theorem permWords_injective : Function.Injective permWords := by
  have hcolumn : Function.Injective columnRound :=
    roundOver_injective fun _ hg => separateGroups_columnGroups.nodup hg
  have hdiagonal : Function.Injective diagonalRound :=
    roundOver_injective fun _ hg => separateGroups_diagonalGroups.nodup hg
  have hdouble : Function.Injective doubleRound := hdiagonal.comp hcolumn
  rw [funext permWords_eq_iterate]
  exact hdouble.iterate 10

/-- An injective function on the sixteen words is surjective, since they take finitely many values. -/
theorem permWords_surjective : Function.Surjective permWords := by
  have hfinite : Finite (Vector Word 16) :=
    Finite.of_injective (fun w (i : Fin 16) => w[i]) fun _ _ h => words_ext (congrFun h)
  exact Finite.injective_iff_surjective.mp permWords_injective

/-! ### The zero state -/

theorem quarterRoundOn_zero {g : Fin 16 × Fin 16 × Fin 16 × Fin 16} (hg : (groupPlaces g).Nodup) :
    quarterRoundOn g (Vector.replicate 16 0) = Vector.replicate 16 0 := by
  obtain ⟨a, b, c, d⟩ := g
  obtain ⟨hab, hac, had, hbc, hbd, hcd⟩ := (nodup_groupPlaces_iff a b c d).mp hg
  have hword := quarterRoundMixesFourWords a b c d (Vector.replicate 16 0) hab hac had hbc hbd hcd
  refine words_ext fun i => ?_
  rw [quarterRoundOn, hword i]
  simp

theorem roundOver_zero {groups : List (Fin 16 × Fin 16 × Fin 16 × Fin 16)}
    (hnodup : ∀ g ∈ groups, (groupPlaces g).Nodup) :
    roundOver groups (Vector.replicate 16 0) = Vector.replicate 16 0 := by
  induction groups with
  | nil => rfl
  | cons g groups ih =>
    rw [List.forall_mem_cons] at hnodup
    rw [roundOver_eq_foldl, List.foldl_cons, quarterRoundOn_zero hnodup.1]
    exact ih hnodup.2

theorem permWords_zero : permWords (Vector.replicate 16 0) = Vector.replicate 16 0 := by
  have hcolumn : columnRound (Vector.replicate 16 0) = Vector.replicate 16 0 :=
    roundOver_zero fun _ hg => separateGroups_columnGroups.nodup hg
  have hdiagonal : diagonalRound (Vector.replicate 16 0) = Vector.replicate 16 0 :=
    roundOver_zero fun _ hg => separateGroups_diagonalGroups.nodup hg
  rw [permWords_eq_iterate]
  exact Function.iterate_fixed (by rw [doubleRound, hcolumn, hdiagonal]) 10

/-- Settles O21: every quarter round can be undone and fixes the zero words, and with it the ten double rounds. -/
theorem permIsABijection : Obligations.PermIsABijection := by
  unfold Obligations.PermIsABijection
  exact ⟨fun _ _ h => permWords_injective h, permWords_surjective, permWords_zero⟩

/-! ### The block function and HChaCha20 -/

/-- With the words `(ctr, nonce)` as its nonce words, HINIT lays out what INITSTATE does (R102, R140). -/
theorem hinitWords_counter_nonce (kw : Vector Word 8) (ctr : Word) (nw : Vector Word 3) :
    hinitWords kw #v[ctr, nw[0], nw[1], nw[2]] = initStateWords kw ctr nw := rfl

theorem subkeyOf_counter (w : Vector Word 16) : (subkeyOf w)[4] = w[12] := rfl

theorem subkeyOf_tail (w : Vector Word 16) (i : Fin 3) : (subkeyOf w)[5 + i.val] = w[13 + i.val] := by
  fin_cases i <;> rfl

theorem le32s_blockBytes (kw : Vector Word 8) (ctr : Word) (nw : Vector Word 3) :
    le32s 16 (blockBytes kw ctr nw).toList =
      feedForwardWords (permWords (initStateWords kw ctr nw)) (initStateWords kw ctr nw) := by
  rw [blockBytes, toList_ser, le32s_ser32s]

/-- Settles O26: both permute the same sixteen words; the block adds them once more, and the subkey selects. -/
theorem blockIsHChaChaPlusFeedForward : Obligations.BlockIsHChaChaPlusFeedForward := by
  unfold Obligations.BlockIsHChaChaPlusFeedForward
  intro kw ctr nw
  dsimp only
  rw [le32s_blockBytes, subkeyWords, hinitWords_counter_nonce]
  refine ⟨fun i => ?_, ?_, fun i => ?_⟩
  · rw [getElem_feedForwardWords, subkeyOf_first, initStateWords_constant]
  · rw [getElem_feedForwardWords, initStateWords_counter, ← subkeyOf_counter]
  · rw [getElem_feedForwardWords, subkeyOf_tail, initStateWords_nonce]

/-! ### Words and bytes -/

/-- Byte `i` of a byte string read as words is byte `i mod 4` of its word. -/
theorem wordByte_le32 (p : List Byte) (j k : Nat) (hk : k < 4) :
    wordByte (le32 (byteAt p j) (byteAt p (j + 1)) (byteAt p (j + 2)) (byteAt p (j + 3))) k = byteAt p (j + k) := by
  obtain rfl | rfl | rfl | rfl : k = 0 ∨ k = 1 ∨ k = 2 ∨ k = 3 := by omega
  · exact wordByte_le32_zero ..
  · exact wordByte_le32_one ..
  · exact wordByte_le32_two ..
  · exact wordByte_le32_three ..

theorem byteAt_eq_getElem (p : List Byte) (i : Nat) (h : i < p.length) : byteAt p i = p[i] :=
  List.getD_eq_getElem p 0 h

/-- Serializing the words read from whole words of bytes gives the bytes. -/
theorem ser32s_le32s (n : Nat) (p : List Byte) (hp : p.length = 4 * n) : ser32s (le32s n p) = p := by
  apply List.ext_getElem (by rw [length_ser32s, hp])
  intro i hi hip
  rw [← byteAt_eq_getElem _ i hi, ← byteAt_eq_getElem p i hip]
  have hword := byteAt_ser32s (le32s n p) (i / 4) (i % 4) (by omega) (by omega)
  rwa [getElem_le32s, wordByte_le32 p _ _ (by omega), Nat.div_add_mod] at hword

/-- Settles O28: byte by byte and word by word. -/
theorem wordAndByteConversionsAreInverse : Obligations.WordAndByteConversionsAreInverse := by
  unfold Obligations.WordAndByteConversionsAreInverse
  exact ⟨fun _ _ _ _ => by simp [ser32], le32_wordByte, ser32s_le32s, fun _ => le32s_ser32s⟩

/-- Settles O15: each constant word is the little-endian number of its four characters. -/
theorem constantWordsReadTheText : Obligations.ConstantWordsReadTheText := by
  unfold Obligations.ConstantWordsReadTheText
  exact ⟨by decide, rfl, rfl, rfl, rfl⟩

end Sys2Proof.Machine
end

section
/-! The step (spec/20_memory.md sections 4 and 5, spec/70_reset_and_hazards.md): what stands at the head of the inputs,
what a step can do, and what no step and no response touches. -/

namespace Sys2Proof.Machine

open Sys2Proof.Safety

/-! ### What stands at the head of the inputs -/

/-- Bytes of a packet that has not come to its end yet. -/
def unfinished (sent : List Byte) : List HostInput := sent.map fun b => HostInput.beat ⟨b, false⟩

theorem nextTransaction_unfinished (sent : List Byte) : nextTransaction (unfinished sent) = .wait := by
  induction sent with
  | nil => rfl
  | cons b sent ih =>
    rw [unfinished, List.map_cons, ← unfinished, nextTransaction, if_neg (by simp), ih]

theorem nextTransaction_unfinished_reset (sent : List Byte) (rest : List HostInput) :
    nextTransaction (unfinished sent ++ .reset :: rest) = .reset rest := by
  induction sent with
  | nil => rfl
  | cons b sent ih =>
    rw [unfinished, List.map_cons, ← unfinished, List.cons_append, nextTransaction, if_neg (by simp), ih]

theorem packetBeats_cons (b : Byte) {p : List Byte} (hp : p ≠ []) :
    packetBeats (b :: p) = ⟨b, false⟩ :: packetBeats p := by
  cases p with
  | nil => exact absurd rfl hp
  | cons c p => rfl

/-- A packet is found only where it was sent, up to its byte marked last. -/
theorem input_eq_of_nextTransaction_packet (inputs rest : List HostInput) (p : List Byte)
    (h : nextTransaction inputs = .packet p rest) : inputs = (packetBeats p).map HostInput.beat ++ rest := by
  induction inputs generalizing p with
  | nil => cases h
  | cons x inputs ih =>
    obtain ⟨b, last⟩ | _ := x
    · cases last with
      | true =>
        obtain ⟨rfl, rfl⟩ := Transaction.packet.inj ((nextTransaction_of_last b inputs).symm.trans h)
        rfl
      | false =>
        rw [nextTransaction, if_neg (by simp)] at h
        split at h
        case h_1 q rest' hfound =>
          obtain ⟨rfl, rfl⟩ := Transaction.packet.inj h
          rw [packetBeats_cons b (nextTransaction_packet_ne_nil inputs _ q hfound), ih q hfound]
          rfl
        all_goals cases h
    · cases h

/-- Settles O3: both directions of the cut at the byte marked last. -/
theorem packetEndsAtTheByteMarkedLast : Obligations.PacketEndsAtTheByteMarkedLast := by
  unfold Obligations.PacketEndsAtTheByteMarkedLast
  exact ⟨nextTransaction_packetBeats, fun inputs rest p h =>
    ⟨nextTransaction_packet_ne_nil inputs rest p h, input_eq_of_nextTransaction_packet inputs rest p h⟩⟩

/-! ### One step -/

/-- Settles O2: the reset is found behind the bytes of the unfinished packet, whatever the core is doing. -/
theorem resetAbandonsWhatWasBegun : Obligations.ResetAbandonsWhatWasBegun := by
  unfold Obligations.ResetAbandonsWhatWasBegun
  intro s sent rest hinput
  exact step_of_reset s rest (hinput ▸ nextTransaction_unfinished_reset sent rest)

/-- Settles O8: an unfinished packet is no transaction yet. -/
theorem idleCoreWaits : Obligations.IdleCoreWaits := by
  unfold Obligations.IdleCoreWaits
  intro s sent hbusy hinput
  exact step_of_wait s hbusy (hinput ▸ nextTransaction_unfinished sent)

/-- Settles O4: the packet is taken, and what it decodes to is run. -/
theorem stepRunsTheDecodedCommand : Obligations.StepRunsTheDecodedCommand := by
  unfold Obligations.StepRunsTheDecodedCommand
  intro s p rest i hbusy hpacket hdecode
  rw [step_of_packet s p rest hbusy hpacket, runPacket_of_ok p i _ hdecode]
  rfl

/-- Settles O9: without a reset a core in a command refuses, packet or none. -/
theorem commandInProgressIsRefused : Obligations.CommandInProgressIsRefused := by
  unfold Obligations.CommandInProgressIsRefused
  intro s hbusy hreset
  rw [step]
  cases hnext : nextTransaction s.input with
  | packet p rest => exact if_pos hbusy
  | reset rest => exact absurd hnext (hreset rest)
  | wait => exact if_pos hbusy

/-- Settles O7: a reset, a packet's response and waiting each leave `BUSY` = 0. -/
theorem coreNeverStops : Obligations.CoreNeverStops := by
  unfold Obligations.CoreNeverStops
  intro s hbusy
  cases hnext : nextTransaction s.input with
  | packet p rest =>
    obtain ⟨rc, payload, t, hrun, -, -⟩ := runPacket_respondsFrom p (acceptPacket rest s)
    exact ⟨_, (step_of_packet s p rest hbusy hnext).trans hrun, respond_BUSY ..⟩
  | reset rest => exact ⟨_, step_of_reset s rest hnext, resetEvent_BUSY ..⟩
  | wait => exact ⟨s, step_of_wait s hbusy hnext, hbusy⟩

/-- Everything a step with a next state can be. -/
theorem step_cases {s t : State} (h : step s = .next t) :
    (∃ rest, nextTransaction s.input = .reset rest ∧ t = resetEvent rest s) ∨
    (∃ p rest, nextTransaction s.input = .packet p rest ∧ runPacket p (acceptPacket rest s) = .next t) ∨
    (nextTransaction s.input = .wait ∧ t = s) := by
  rw [step] at h
  cases hnext : nextTransaction s.input with
  | reset rest =>
    rw [hnext] at h
    exact .inl ⟨rest, rfl, (Host.Outcome.next.inj h).symm⟩
  | packet p rest =>
    simp only [hnext] at h
    split_ifs at h
    exact .inr (.inl ⟨p, rest, rfl, h⟩)
  | wait =>
    simp only [hnext] at h
    split_ifs at h
    exact .inr (.inr ⟨rfl, (Host.Outcome.next.inj h).symm⟩)

/-- Settles O10: `respond` is the record of its writes, and `raise` is `respond` with no payload. -/
theorem respondEndsTheCommand : Obligations.RespondEndsTheCommand := by
  unfold Obligations.RespondEndsTheCommand
  exact fun rc payload s => ⟨rfl, raise_eq s rc⟩

/-! ### The commands that leave the context alone -/

/-- `BLOCK` and `HCHACHA` answer in every state what their operands alone determine (R125, R143). -/
theorem exec_stateless_responds {i : Instr}
    (hi : (∃ ctr key nonce, i = .block ctr key nonce) ∨ (∃ key nonce, i = .hchacha key nonce)) :
    ∃ rc payload, ∀ s, exec i s = .next (respond rc payload s) := by
  obtain ⟨ctr, key, nonce, rfl⟩ | ⟨key, nonce, rfl⟩ := hi
  · simp only [blockAnswersOneBlock ctr key nonce _]
    split_ifs
    · exact ⟨_, _, fun s => rfl⟩
    · exact ⟨_, _, fun s => rfl⟩
    · exact ⟨_, _, fun s => rfl⟩
  · simp only [hchachaAnswersTheSubkey key nonce _]
    split_ifs
    · exact ⟨_, _, fun s => rfl⟩
    · exact ⟨_, _, fun s => rfl⟩
    · exact ⟨_, _, fun s => rfl⟩

/-- Settles O37: the answer is the same in every state, and a response leaves the context alone. -/
theorem statelessCommandsRevealNothing : Obligations.StatelessCommandsRevealNothing := by
  unfold Obligations.StatelessCommandsRevealNothing
  intro i hi
  obtain ⟨rc, payload, hexec⟩ := exec_stateless_responds hi
  exact ⟨rc, payload, fun s => ⟨_, hexec s, rfl, rfl, rfl, rfl, rfl, rfl, rfl, rfl, rfl, rfl⟩⟩

/-! ### What a packet does to the context -/

/-- What a command that neither loads nor clears the context can make of the state before it responds: nothing, `ST`
exhausted, or what serving bytes leaves. -/
inductive UsedFrom (s : State) : State → Prop where
  | untouched : UsedFrom s s
  | exhausted (hcontext : s.ST ≠ .uninit) : UsedFrom s { s with ST := .exhausted }
  | served (data : List Byte) (hready : s.ST = .ready) (hfits : ¬ exhausts s data.length) :
    UsedFrom s (xorBytes data s).2

theorem exec_xorks_usedFrom (olen : Nat) (data : List Byte) (s : State) :
    ∃ rc payload u, exec (.xorks olen data) s = .next (respond rc payload u) ∧ UsedFrom s u := by
  rw [exec_xorks_eq]
  split_ifs with huninit hlen hexhausted hexh
  · exact ⟨_, _, s, rfl, .untouched⟩
  · exact ⟨_, _, s, rfl, .untouched⟩
  · exact ⟨_, _, s, rfl, .untouched⟩
  · exact ⟨_, _, _, rfl, .exhausted huninit⟩
  · exact ⟨_, _, _, rfl, .served data (ready_of_ne huninit hexhausted) hexh⟩

theorem exec_usedFrom {i : Instr} (s : State) (hzeroize : i ≠ .zeroize)
    (hinit : ∀ ctr key nonce, i ≠ .init ctr key nonce) :
    ∃ rc payload u, exec i s = .next (respond rc payload u) ∧ UsedFrom s u := by
  cases i with
  | init ctr key nonce => exact absurd rfl (hinit ctr key nonce)
  | zeroize => exact absurd rfl hzeroize
  | xorks olen data => exact exec_xorks_usedFrom olen data s
  | hchacha key nonce =>
    obtain ⟨rc, payload, hexec⟩ := exec_stateless_responds (.inr ⟨key, nonce, rfl⟩)
    exact ⟨rc, payload, s, hexec s, .untouched⟩
  | block ctr key nonce =>
    obtain ⟨rc, payload, hexec⟩ := exec_stateless_responds (.inl ⟨ctr, key, nonce, rfl⟩)
    exact ⟨rc, payload, s, hexec s, .untouched⟩

theorem exec_init_loads_or_fails (ctr : Option Word) (key nonce : List Byte) (s : State) :
    ∃ rc payload u, exec (.init ctr key nonce) s = .next (respond rc payload u) ∧
      (u = s ∨ ∃ kw nw v c, u = loadContext kw nw v c s) := by
  by_cases hkey : key.length = 32
  · by_cases hnonce : nonce.length = 12 ∨ nonce.length = 24
    · obtain ⟨kw, nw, v, hexec⟩ := exec_init_loads ctr key nonce s hkey hnonce
      exact ⟨_, _, _, hexec, .inr ⟨kw, nw, v, _, rfl⟩⟩
    · obtain ⟨hclassic, hextended⟩ := not_or.mp hnonce
      exact ⟨_, _, s, exec_init_of_wrong_nonce ctr key nonce s hkey hclassic hextended, .inl rfl⟩
  · exact ⟨_, _, s, exec_init_of_wrong_key ctr key nonce s hkey, .inl rfl⟩

/-- Every packet is answered from a state in which the context was cleared by `ZEROIZE`, loaded by `INIT`, or used. -/
theorem runPacket_context (p : List Byte) (s : State) :
    ∃ rc payload u, runPacket p s = .next (respond rc payload u) ∧
      (decode p = .ok .zeroize ∧ u = clearContext s ∨
        (∃ ctr key nonce kw nw v c, decode p = .ok (.init ctr key nonce) ∧ u = loadContext kw nw v c s) ∨
        UsedFrom s u) := by
  cases hd : decode p with
  | error e => exact ⟨_, _, s, runPacket_of_error p e s hd, .inr (.inr .untouched)⟩
  | ok i =>
    rw [runPacket_of_ok p i s hd]
    by_cases hzeroize : i = .zeroize
    · subst hzeroize
      exact ⟨_, _, _, exec_zeroize s, .inl ⟨rfl, rfl⟩⟩
    by_cases hinit : ∃ ctr key nonce, i = .init ctr key nonce
    · obtain ⟨ctr, key, nonce, rfl⟩ := hinit
      obtain ⟨rc, payload, u, hexec, rfl | ⟨kw, nw, v, c, rfl⟩⟩ := exec_init_loads_or_fails ctr key nonce s
      · exact ⟨rc, payload, _, hexec, .inr (.inr .untouched)⟩
      · exact ⟨rc, payload, _, hexec, .inr (.inl ⟨ctr, key, nonce, kw, nw, v, c, rfl, rfl⟩)⟩
    · obtain ⟨rc, payload, u, hexec, hused⟩ :=
        exec_usedFrom s hzeroize fun ctr key nonce h => hinit ⟨ctr, key, nonce, h⟩
      exact ⟨rc, payload, u, hexec, .inr (.inr hused)⟩

theorem UsedFrom.keeps_key {s u : State} (h : UsedFrom s u) : u.K = s.K ∧ u.N = s.N := by
  cases h with
  | untouched => exact ⟨rfl, rfl⟩
  | exhausted _ => exact ⟨rfl, rfl⟩
  | served data _ _ =>
    obtain ⟨hK, hN, -⟩ := xorBytes_keeps data s
    exact ⟨hK, hN⟩

/-- Settles O51: a packet that neither clears nor loads the context uses it, which keeps `K` and `N`. -/
theorem onlyInitAndZeroizeWriteTheKey : Obligations.OnlyInitAndZeroizeWriteTheKey := by
  unfold Obligations.OnlyInitAndZeroizeWriteTheKey
  intro s t hstep hchange
  obtain ⟨rest, hreset, -⟩ | ⟨p, rest, hpacket, hrun⟩ | ⟨-, rfl⟩ := step_cases hstep
  · exact .inl ⟨rest, hreset⟩
  · refine .inr ⟨p, rest, hpacket, ?_⟩
    obtain ⟨rc, payload, u, hrespond, hu⟩ := runPacket_context p (acceptPacket rest s)
    obtain rfl := Host.Outcome.next.inj (hrun.symm.trans hrespond)
    obtain ⟨hzeroize, -⟩ | ⟨ctr, key, nonce, -, -, -, -, hinit, -⟩ | hused := hu
    · exact .inl hzeroize
    · exact .inr ⟨ctr, key, nonce, hinit⟩
    · obtain ⟨hK, hN⟩ := hused.keeps_key
      exact absurd hchange (not_or.mpr ⟨not_not.mpr hK, not_not.mpr hN⟩)
  · exact absurd hchange (by simp)

theorem UsedFrom.counter_le {s u : State} (h : UsedFrom s u) : s.CTR.toNat ≤ u.CTR.toNat := by
  cases h with
  | untouched => exact Nat.le_refl _
  | exhausted _ => exact Nat.le_refl _
  | served data _ hfits =>
    have hprogress := progress_xorBytes data s ((not_exhausts_iff s _).mp hfits)
    have hoff : (xorBytes data s).2.OFF.val < 65 := (xorBytes data s).2.OFF.isLt
    cases data with
    | nil => exact Nat.le_refl _
    | cons x data =>
      rw [progress, progress, List.length_cons] at hprogress
      omega

/-- Settles O52: serving bytes adds to `progress`, in which the counter counts 64. -/
theorem counterNeverGoesBack : Obligations.CounterNeverGoesBack := by
  unfold Obligations.CounterNeverGoesBack
  intro i s hzeroize hinit
  obtain ⟨rc, payload, u, hexec, hused⟩ := exec_usedFrom s hzeroize hinit
  exact ⟨_, hexec, hused.counter_le⟩

end Sys2Proof.Machine
end

section
/-! The invariants between commands (spec/10_state.md section 5, R38): a response clears the transient state, so what
is left to keep is the part that speaks of the context. With them the status pins (R36). -/

namespace Sys2Proof.Machine

open Sys2Proof.Safety

/-- R38 without its point 4, which every response restores. That `OFF` < 64 only with a block generated is said of
`progress`, which serving bytes adds to. -/
structure ContextInv (s : State) : Prop where
  offset : s.OFF ≠ 0
  consumed : ConsumedCleared s
  empty : s.ST = .uninit →
    s.K = Vector.replicate 8 0 ∧ s.N = Vector.replicate 3 0 ∧ s.CTR = 0 ∧
    s.BUF = Vector.replicate 64 0 ∧ s.OFF = 64 ∧ s.VAR = .classic
  generated : s.ST ≠ .uninit → 64 ≤ progress s ∧ HoldsLastBlock s

theorem generated_iff (s : State) (hoff : s.OFF ≠ 0) :
    64 ≤ progress s ∧ HoldsLastBlock s ↔
      (s.OFF.val < 64 → 1 ≤ s.CTR.toNat ∧
        ∀ i, s.OFF.val ≤ i → i < 64 → bufByte s.BUF i = bufByte (blockBytes s.K (s.CTR - 1) s.N) i) := by
  have hpos : s.OFF.val ≠ 0 := Fin.val_ne_of_ne hoff
  constructor
  · rintro ⟨hprogress, hlast⟩ hlt
    rw [progress] at hprogress
    exact ⟨by omega, hlast⟩
  · intro h
    by_cases hlt : s.OFF.val < 64
    · obtain ⟨hctr, hlast⟩ := h hlt
      exact ⟨by rw [progress]; omega, hlast⟩
    · exact ⟨by rw [progress]; omega, fun i hi hi64 => absurd (Nat.lt_of_le_of_lt hi hi64) hlt⟩

theorem inv_iff (s : State) : Inv s ↔ Idle s ∧ ContextInv s := by
  constructor
  · rintro ⟨hidle, hoff, hconsumed, hempty, hunconsumed⟩
    exact ⟨hidle, hoff, hconsumed, hempty, fun hst => (generated_iff s hoff).mpr (hunconsumed hst)⟩
  · rintro ⟨hidle, hoff, hconsumed, hempty, hgenerated⟩
    exact ⟨hidle, hoff, hconsumed, hempty, fun hst => (generated_iff s hoff).mp (hgenerated hst)⟩

theorem inv_respond {s : State} (rc : ResultCode) (payload : List Byte) (h : ContextInv s) :
    Inv (respond rc payload s) := by
  obtain ⟨hoff, hconsumed, hempty, hgenerated⟩ := h
  exact (inv_iff _).mpr ⟨idle_respond rc payload s, hoff, hconsumed, hempty, hgenerated⟩

theorem contextInv_acceptPacket {s : State} (rest : List HostInput) (h : ContextInv s) :
    ContextInv (acceptPacket rest s) := by
  obtain ⟨hoff, hconsumed, hempty, hgenerated⟩ := h
  exact ⟨hoff, hconsumed, hempty, hgenerated⟩

theorem consumedCleared_of_zero {s : State} (h : s.BUF = Vector.replicate 64 0) : ConsumedCleared s := by
  intro i _
  rw [h, bufByte_replicate_zero]

theorem contextInv_clearContext (s : State) : ContextInv (clearContext s) where
  offset := by simp
  consumed := consumedCleared_of_zero rfl
  empty _ := ⟨rfl, rfl, rfl, rfl, rfl, rfl⟩
  generated h := absurd rfl h

theorem contextInv_loadContext (kw : Vector Word 8) (nw : Vector Word 3) (v : Variant) (c : Word) (s : State) :
    ContextInv (loadContext kw nw v c s) where
  offset := by simp
  consumed := consumedCleared_of_zero rfl
  empty h := by cases h
  generated _ := (generated_iff _ (by simp)).mpr fun h => absurd h (by simp)

theorem contextInv_of_usedFrom {s u : State} (hused : UsedFrom s u) (h : ContextInv s) : ContextInv u := by
  obtain ⟨hoff, hconsumed, hempty, hgenerated⟩ := h
  cases hused with
  | untouched => exact ⟨hoff, hconsumed, hempty, hgenerated⟩
  | exhausted hcontext => exact ⟨hoff, hconsumed, nofun, fun _ => hgenerated hcontext⟩
  | served data hready hfits =>
    have hcontext : s.ST ≠ .uninit := by rw [hready]; nofun
    obtain ⟨hprogress, hlast⟩ := hgenerated hcontext
    obtain ⟨-, -, hST, -⟩ := xorBytes_keeps data s
    refine ⟨xorBytes_OFF_ne_zero data s (.inl hoff), consumedCleared_xorBytes data s hconsumed,
      fun h => absurd (hST.symm.trans h) hcontext, fun _ => ⟨?_, holdsLastBlock_xorBytes data s hlast⟩⟩
    rw [progress_xorBytes data s ((not_exhausts_iff s _).mp hfits)]
    omega

theorem inv_resetEvent (rest : List HostInput) (s : State) : Inv (resetEvent rest s) := by
  obtain ⟨hoff, hconsumed, hempty, hgenerated⟩ := contextInv_clearContext s
  exact (inv_iff _).mpr ⟨⟨rfl, rfl, rfl, rfl⟩, hoff, hconsumed, hempty, hgenerated⟩

/-- Settles O54: the reset state is what a reset event gives. -/
theorem resetMeetsTheInvariants : Obligations.ResetMeetsTheInvariants := by
  unfold Obligations.ResetMeetsTheInvariants
  rw [reset_eq_resetEvent]
  exact inv_resetEvent [] State.reset

/-- Settles O55: a reset gives the reset values; a packet clears, loads or uses the context, each of which keeps the
invariants of the context, and then responds; waiting changes nothing. -/
theorem stepKeepsTheInvariants : Obligations.StepKeepsTheInvariants := by
  unfold Obligations.StepKeepsTheInvariants
  intro s t hinv hstep
  obtain ⟨rest, -, rfl⟩ | ⟨p, rest, -, hrun⟩ | ⟨-, rfl⟩ := step_cases hstep
  · exact inv_resetEvent rest s
  · obtain ⟨-, hcontext⟩ := (inv_iff s).mp hinv
    obtain ⟨rc, payload, u, hrespond, hu⟩ := runPacket_context p (acceptPacket rest s)
    obtain rfl := Host.Outcome.next.inj (hrun.symm.trans hrespond)
    apply inv_respond
    obtain ⟨-, rfl⟩ | ⟨-, -, -, kw, nw, v, c, -, rfl⟩ | hused := hu
    · exact contextInv_clearContext _
    · exact contextInv_loadContext kw nw v c _
    · exact contextInv_of_usedFrom hused (contextInv_acceptPacket rest hcontext)
  · exact hinv

/-! ### The status pins -/

/-- Settles O53: the pins are computed from the six fields, and 7 bits hold every `OFF`. -/
theorem statusPinsShowNoSecret : Obligations.StatusPinsShowNoSecret := by
  unfold Obligations.StatusPinsShowNoSecret
  refine ⟨fun s kw nw b w v r => ⟨rfl, ?_⟩, rfl, rfl, rfl, rfl, rfl⟩
  have hoff : s.OFF.val < 2 ^ 7 := Nat.lt_trans s.OFF.isLt (by decide)
  rw [statusPins, BitVec.toNat_ofNat, Nat.mod_eq_of_lt hoff]

end Sys2Proof.Machine
end
